-- ==== Sys2Proof/Word.lean ====
section
/-! DEFINITION. The plain types every other file names: bytes, levels and the numbered things of the part
(lines, groups, event rings, vectors). -/

namespace Sys2Proof

/-- One byte, as the link carries it (R178). -/
abbrev Byte := BitVec 8

/-- A logical or raw level of an input: `true` is 1, `false` is 0 (R2). -/
abbrev Level := Bool

/-- One of the 48 input lines, IN0 to IN47 (R1). -/
abbrev LineNo := Fin 48

/-- One of the eight entries of the group table (R79). -/
abbrev GroupNo := Fin 8

/-- One of the four event rings (R114). -/
abbrev RingNo := Fin 4

/-- A class of a line record, 0 to 3, 3 highest (R79). -/
abbrev ClassNo := Fin 4

/-- One of the six notification vectors (R168). -/
abbrev VectorNo := Fin 6

/-- The 32 bytes of an event record, completion record or archive entry as one number: byte `i` of the layout is
bits `8 i` to `8 i + 7` (little-endian order, R178). -/
abbrev Record32 := BitVec 256

end Sys2Proof
end

