-- ==== Sys2Proof/Syntax.lean ====
section
/-! DEFINITION. The commands of the block: one constructor for every row of spec/opcode_table.json, with the row's operands.
A host command (CONFIGURE_LINES to SET_NOTIFY, and BAD_KIND) is the event at which the read of its 64-byte command record
completes: its operands are the record's fields at their full widths (R179), before any test of R132. A completion says which DMA read it
answers, by the number that the read was issued under (R129, R154; log entry 9). -/

namespace Sys2Proof

/-- The active edge of SYNC (R43). -/
inductive Edge where
  | rising
  | falling
  deriving DecidableEq, Repr

/-- How a DMA read ends in a bus error (R127). -/
inductive ReadFailure where
  /-- A completion whose status is other than successful, or whose data is marked poisoned. -/
  | badCompletion (read : Nat)
  /-- No completion within 50 ms of the instant at which the read became due. -/
  | timeout
  deriving DecidableEq, Repr

/-- The three ways the PCI Express link resets the part (R165). -/
inductive LinkResetOrigin where
  | perst
  | hotReset
  | linkLost
  deriving DecidableEq, Repr

/-- The head of a command record as the completion of its read delivers it: the number of the DMA read that the completion answers
(R129, R154; log entry 9), and the record's tag (R131). -/
structure CommandHead where
  read : Nat
  tag : BitVec 16
  deriving DecidableEq, Repr

/-- The parameters of a CONFIGURE_LINES record, field indices 2 to 10, at their widths in the record (R179). -/
structure LineParams where
  lineMask : BitVec 64
  role : Byte
  invert : Byte
  report : Byte
  debounce : BitVec 32
  chatterLimit : Byte
  chatterWindow : BitVec 32
  quietTime : BitVec 32
  group : Byte
  deriving DecidableEq, Repr

/-- The four fields of one vector in the initialisation block (R180). -/
structure VectorBlock where
  address : BitVec 64
  data : BitVec 32
  threshold : Byte
  delay : BitVec 16
  deriving DecidableEq, Repr

/-- Base and size of one event ring in the initialisation block (R180). -/
structure EventRingBlock where
  base : BitVec 64
  size : BitVec 32
  deriving DecidableEq, Repr

/-- The fields of the 256-byte initialisation block, at their widths (R180). -/
structure InitBlock where
  version : BitVec 32
  commandBase : BitVec 64
  commandSize : BitVec 32
  completionBase : BitVec 64
  completionSize : BitVec 32
  eventRings : Vector EventRingBlock 4
  systemRing : Byte
  vectors : Vector VectorBlock 6
  deriving DecidableEq, Repr

/-- What the completion of a block read delivers: the number of the DMA read that it answers (R161; log entry 9), and the fields of the
block. -/
structure BlockAnswer where
  read : Nat
  block : InitBlock
  deriving DecidableEq, Repr

/-- One command of the block: one constructor for each row of the table. -/
inductive Instr where
  /-- RAW_CHANGE (R2): the sample of `line` taken at this instant is `level`. -/
  | rawChange (line : LineNo) (level : Level)
  /-- DEBOUNCE_EXPIRY (R8). -/
  | debounceExpiry (line : LineNo)
  /-- WINDOW_TIMER_EXPIRY (R26). -/
  | windowTimerExpiry (line : LineNo)
  /-- QUIET_TIMER_EXPIRY (R27). -/
  | quietTimerExpiry (line : LineNo)
  /-- SYNC_PULSE (R44, R45): the sample of SYNC taken at this instant is `level`. -/
  | syncPulse (level : Level)
  /-- HOLD_EXPIRY (R46). -/
  | holdExpiry
  /-- LOSS_EXPIRY (R48). -/
  | lossExpiry
  /-- HOLDOVER_EXPIRY (R49). -/
  | holdoverExpiry
  /-- ENTRY_ELIGIBLE (R63): the first staged entry of `ring` reaches its eligibility. -/
  | entryEligible (ring : RingNo)
  /-- RELEASE_STEP (R67). -/
  | releaseStep (ring : RingNo)
  /-- REPLAY_READ (R102). -/
  | replayRead
  /-- REPLAY_GRANT (R125). -/
  | replayGrant
  /-- VERIFY_READ (R106). -/
  | verifyRead
  /-- COMMAND_TAKE (R121). -/
  | commandTake
  /-- BAD_KIND (R132): the command read completes with a kind code that is not defined. -/
  | badKind (kind : Byte) (head : CommandHead)
  /-- CONFIGURE_LINES (R15). -/
  | configureLines (head : CommandHead) (params : LineParams)
  /-- CONFIGURE_GROUP (R81). -/
  | configureGroup (head : CommandHead) (group cls ring enabled : Byte)
  /-- CONFIGURE_TIMEBASE (R51). -/
  | configureTimebase (head : CommandHead) (enable edge : Byte) (tolerance limit : BitVec 32)
  /-- SET_TIME (R53). -/
  | setTime (head : CommandHead) (value : BitVec 64)
  /-- GET_TIME (R139). -/
  | getTime (head : CommandHead)
  /-- SNAPSHOT_LEVELS (R141). -/
  | snapshotLevels (head : CommandHead) (address : BitVec 64)
  /-- SNAPSHOT_COUNTERS (R35). -/
  | snapshotCounters (head : CommandHead) (groupMask clear : Byte)
  /-- READ_STATISTICS (R144). -/
  | readStatistics (head : CommandHead) (address : BitVec 64) (clear : Byte)
  /-- REPLAY (R147). -/
  | replay (head : CommandHead) (first : BitVec 64) (count : BitVec 32) (ring : Byte)
  /-- VERIFY_ARCHIVE (R148). -/
  | verifyArchive (head : CommandHead) (first : BitVec 64) (count : BitVec 32)
  /-- ABORT (R110). -/
  | abort (head : CommandHead) (target : BitVec 16)
  /-- SET_NOTIFY (R151). -/
  | setNotify (head : CommandHead) (vector threshold : Byte) (delay : BitVec 16)
  /-- MEMORY_WRITE_ISSUE (R126): the first due memory write is issued onto the link. -/
  | memoryWriteIssue
  /-- COALESCING_TIMER_EXPIRY (R170). -/
  | coalescingTimerExpiry (vector : VectorNo)
  /-- CMD_TAIL (R118): a register write of the whole 32-bit value. -/
  | cmdTail (value : BitVec 32)
  /-- CPL_HEAD (R119). -/
  | cplHead (value : BitVec 32)
  /-- EVT_HEAD[n] (R119). -/
  | evtHead (ring : RingNo) (value : BitVec 32)
  /-- REGISTER_WRITE (R176): one 32-bit access of the register window, with its byte enables. -/
  | registerWrite (offset : BitVec 12) (value : BitVec 32) (enables : BitVec 4)
  /-- ATTACH (R158): a CONTROL write of 0000_0001h. -/
  | attach
  /-- BLOCK_READ_COMPLETE (R159): the initialisation block read returns good data. -/
  | blockReadComplete (answer : BlockAnswer)
  /-- INIT_BUS_ERROR (R158). -/
  | initBusError (cause : ReadFailure)
  /-- READ_BUS_ERROR (R127). -/
  | readBusError (cause : ReadFailure)
  /-- WRITE_BUS_ERROR (R128). -/
  | writeBusError
  /-- FAULT_NOTIFY_FAILED (R163). -/
  | faultNotifyFailed
  /-- DETACH (R161): a CONTROL write of 0000_0002h. -/
  | detach
  /-- RESET (R165): a CONTROL write of 0000_0004h. -/
  | reset
  /-- LINK_RESET (R165). -/
  | linkReset (origin : LinkResetOrigin)
  /-- POWER_ON_RESET (R166); `levels` and `sync` are the first samples of IN0 to IN47 and of SYNC (R2, R44). -/
  | powerOnReset (levels : BitVec 48) (sync : Level)
  /-- RETENTION_DISTURBANCE (R98): the stored content of the entry of `seq` becomes `record` and `code`. -/
  | retentionDisturbance (seq : Nat) (record : Record32) (code : BitVec 16)
  deriving DecidableEq, Repr

end Sys2Proof
end

