-- ==== Sys2Proof/WellFormed.lean ====
section
/-! DEFINITION. Which commands are well formed: the constraints on operands that the types do not carry. -/

namespace Sys2Proof

/-- The twelve defined command kinds are the codes 01h to 0Ch (R179). -/
def definedKind (kind : Byte) : Bool :=
  decide (1 ≤ kind.toNat) && decide (kind.toNat ≤ 12)

/-- A command is well formed when its operands are ones that its row can have: BAD_KIND carries a code that is not defined
(R132), a register access is aligned to 4 bytes (R176), and a disturbed entry is named by a sequence number, which is 1 or
more (R68, R97). -/
def Instr.wf : Instr → Bool
  | .badKind kind _ => !definedKind kind
  | .registerWrite offset _ _ => decide (offset.toNat % 4 = 0)
  | .retentionDisturbance seq _ _ => decide (1 ≤ seq)
  | _ => true

end Sys2Proof
end

