-- ==== Sys2Proof/Decode.lean ====
section
/-! DEFINITION. What the bytes of host memory and the writes of the register window spell: the byte helpers (R178), the command
record and its encoder (R179), the initialisation block and its encoder (R180), and the command a register access stands for
(R176, R177). The opcode table gives its rows no bits, so no table word spells a command. -/

namespace Sys2Proof

/-! ### Bytes and fields, little-endian (R178) -/

/-- The `w`-bit field at byte offset `offset` of a record. -/
def fieldAt {n : Nat} (r : BitVec n) (offset w : Nat) : BitVec w :=
  r.extractLsb' (8 * offset) w

/-- A record of `n` bits, zero but for `x` at byte offset `offset`. -/
def placeAt (n : Nat) {w : Nat} (offset : Nat) (x : BitVec w) : BitVec n :=
  x.setWidth n <<< (8 * offset)

/-- The first `count` bytes of `x`, least significant first. -/
def bytesOf (count : Nat) {n : Nat} (x : BitVec n) : List Byte :=
  (List.range count).map fun i => fieldAt x i 8

/-- The number that a run of bytes in host memory holds, least significant byte first. -/
def bitsOfBytes (n : Nat) : List Byte → BitVec n
  | [] => 0
  | b :: rest => b.setWidth n ||| (bitsOfBytes n rest <<< 8)

/-! ### The command record (R179) -/

/-- The command that the 64 bytes of a command record, answering the read of a number, spell: the row of its kind code, or BAD_KIND
when the code is not defined. Bytes that no field takes are ignored (R131). -/
def commandOfRecord (read : Nat) (r : BitVec 512) : Instr :=
  let head : CommandHead := { read := read, tag := fieldAt r 2 16 }
  match (fieldAt r 0 8).toNat with
  | 1 => .configureLines head
      { lineMask := fieldAt r 8 64
        role := fieldAt r 16 8
        invert := fieldAt r 17 8
        report := fieldAt r 18 8
        debounce := fieldAt r 20 32
        chatterLimit := fieldAt r 19 8
        chatterWindow := fieldAt r 24 32
        quietTime := fieldAt r 28 32
        group := fieldAt r 32 8 }
  | 2 => .configureGroup head (fieldAt r 8 8) (fieldAt r 9 8) (fieldAt r 10 8) (fieldAt r 11 8)
  | 3 => .configureTimebase head (fieldAt r 8 8) (fieldAt r 9 8) (fieldAt r 12 32) (fieldAt r 16 32)
  | 4 => .setTime head (fieldAt r 8 64)
  | 5 => .getTime head
  | 6 => .snapshotLevels head (fieldAt r 8 64)
  | 7 => .snapshotCounters head (fieldAt r 8 8) (fieldAt r 9 8)
  | 8 => .readStatistics head (fieldAt r 8 64) (fieldAt r 16 8)
  | 9 => .replay head (fieldAt r 8 64) (fieldAt r 16 32) (fieldAt r 20 8)
  | 10 => .verifyArchive head (fieldAt r 8 64) (fieldAt r 16 32)
  | 11 => .abort head (fieldAt r 8 16)
  | 12 => .setNotify head (fieldAt r 8 8) (fieldAt r 9 8) (fieldAt r 12 16)
  | _ => .badKind (fieldAt r 0 8) head

/-- The command that 64 bytes read from the command ring spell; none where they are not 64. -/
def commandOfBytes (read : Nat) (bytes : List Byte) : Option Instr :=
  if bytes.length = 64 then some (commandOfRecord read (bitsOfBytes 512 bytes)) else none

/-- The number of the DMA read that a command answers with good data; none for the commands that are no completion of a read. -/
def Instr.answeredRead : Instr → Option Nat
  | .badKind _ head | .configureLines head _ | .configureGroup head _ _ _ _ | .configureTimebase head _ _ _ _ | .setTime head _
  | .getTime head | .snapshotLevels head _ | .snapshotCounters head _ _ | .readStatistics head _ _ | .replay head _ _ _
  | .verifyArchive head _ _ | .abort head _ | .setNotify head _ _ _ => some head.read
  | .blockReadComplete answer => some answer.read
  | .rawChange _ _ | .debounceExpiry _ | .windowTimerExpiry _ | .quietTimerExpiry _ | .syncPulse _ | .holdExpiry
  | .lossExpiry | .holdoverExpiry | .entryEligible _ | .releaseStep _ | .replayRead | .replayGrant | .verifyRead
  | .commandTake | .memoryWriteIssue | .coalescingTimerExpiry _ | .cmdTail _ | .cplHead _ | .evtHead _ _
  | .registerWrite _ _ _ | .attach | .initBusError _ | .readBusError _ | .writeBusError | .faultNotifyFailed | .detach | .reset
  | .linkReset _ | .powerOnReset _ _ | .retentionDisturbance _ _ _ => none

/-- Kind and tag of a command record (R179). -/
def recordHeader (kind : Byte) (tag : BitVec 16) : BitVec 512 :=
  placeAt 512 0 kind ||| placeAt 512 2 tag

/-- The command record of a host command, every byte that no field takes being 0; none for the rows that are no host
command. -/
def recordOfCommand : Instr → Option (BitVec 512)
  | .badKind kind head => some (recordHeader kind head.tag)
  | .configureLines head p => some (recordHeader 0x01 head.tag ||| placeAt 512 8 p.lineMask ||| placeAt 512 16 p.role |||
      placeAt 512 17 p.invert ||| placeAt 512 18 p.report ||| placeAt 512 19 p.chatterLimit ||| placeAt 512 20 p.debounce |||
      placeAt 512 24 p.chatterWindow ||| placeAt 512 28 p.quietTime ||| placeAt 512 32 p.group)
  | .configureGroup head group cls ring enabled => some (recordHeader 0x02 head.tag ||| placeAt 512 8 group |||
      placeAt 512 9 cls ||| placeAt 512 10 ring ||| placeAt 512 11 enabled)
  | .configureTimebase head enable edge tolerance limit => some (recordHeader 0x03 head.tag ||| placeAt 512 8 enable |||
      placeAt 512 9 edge ||| placeAt 512 12 tolerance ||| placeAt 512 16 limit)
  | .setTime head value => some (recordHeader 0x04 head.tag ||| placeAt 512 8 value)
  | .getTime head => some (recordHeader 0x05 head.tag)
  | .snapshotLevels head address => some (recordHeader 0x06 head.tag ||| placeAt 512 8 address)
  | .snapshotCounters head groupMask clear => some (recordHeader 0x07 head.tag ||| placeAt 512 8 groupMask ||| placeAt 512 9 clear)
  | .readStatistics head address clear => some (recordHeader 0x08 head.tag ||| placeAt 512 8 address ||| placeAt 512 16 clear)
  | .replay head first count ring => some (recordHeader 0x09 head.tag ||| placeAt 512 8 first ||| placeAt 512 16 count |||
      placeAt 512 20 ring)
  | .verifyArchive head first count => some (recordHeader 0x0A head.tag ||| placeAt 512 8 first ||| placeAt 512 16 count)
  | .abort head target => some (recordHeader 0x0B head.tag ||| placeAt 512 8 target)
  | .setNotify head vector threshold delay => some (recordHeader 0x0C head.tag ||| placeAt 512 8 vector |||
      placeAt 512 9 threshold ||| placeAt 512 12 delay)
  | .rawChange _ _ | .debounceExpiry _ | .windowTimerExpiry _ | .quietTimerExpiry _ | .syncPulse _ | .holdExpiry
  | .lossExpiry | .holdoverExpiry | .entryEligible _ | .releaseStep _ | .replayRead | .replayGrant | .verifyRead
  | .commandTake | .memoryWriteIssue | .coalescingTimerExpiry _ | .cmdTail _ | .cplHead _ | .evtHead _ _
  | .registerWrite _ _ _ | .attach | .blockReadComplete _ | .initBusError _ | .readBusError _ | .writeBusError
  | .faultNotifyFailed | .detach | .reset | .linkReset _ | .powerOnReset _ _ | .retentionDisturbance _ _ _ => none

/-! ### The initialisation block (R180) -/

/-- The fields of the 256 bytes of an initialisation block; the bytes between them are ignored. -/
def initBlockOfBits (b : BitVec 2048) : InitBlock where
  version := fieldAt b 0 32
  commandBase := fieldAt b 8 64
  commandSize := fieldAt b 16 32
  completionBase := fieldAt b 24 64
  completionSize := fieldAt b 32 32
  eventRings := Vector.ofFn fun n => { base := fieldAt b (40 + 16 * n.val) 64, size := fieldAt b (48 + 16 * n.val) 32 }
  systemRing := fieldAt b 104 8
  vectors := Vector.ofFn fun v =>
    { address := fieldAt b (112 + 16 * v.val) 64
      data := fieldAt b (120 + 16 * v.val) 32
      threshold := fieldAt b (124 + 16 * v.val) 8
      delay := fieldAt b (126 + 16 * v.val) 16 }

/-- The command that 256 bytes of good data read from the initialisation block address spell; none where they are not
256. -/
def blockCommandOfBytes (read : Nat) (bytes : List Byte) : Option Instr :=
  if bytes.length = 256 then some (.blockReadComplete { read := read, block := initBlockOfBits (bitsOfBytes 2048 bytes) }) else none

/-- One event ring's two fields placed in the block. -/
def eventRingBits (b : InitBlock) (n : RingNo) : BitVec 2048 :=
  placeAt 2048 (40 + 16 * n.val) (b.eventRings.get n).base ||| placeAt 2048 (48 + 16 * n.val) (b.eventRings.get n).size

/-- One vector's four fields placed in the block. -/
def vectorBits (b : InitBlock) (v : VectorNo) : BitVec 2048 :=
  placeAt 2048 (112 + 16 * v.val) (b.vectors.get v).address ||| placeAt 2048 (120 + 16 * v.val) (b.vectors.get v).data |||
  placeAt 2048 (124 + 16 * v.val) (b.vectors.get v).threshold ||| placeAt 2048 (126 + 16 * v.val) (b.vectors.get v).delay

/-- The 256 bytes of an initialisation block, every byte that no field takes being 0. -/
def bitsOfInitBlock (b : InitBlock) : BitVec 2048 :=
  placeAt 2048 0 b.version ||| placeAt 2048 8 b.commandBase ||| placeAt 2048 16 b.commandSize |||
  placeAt 2048 24 b.completionBase ||| placeAt 2048 32 b.completionSize |||
  eventRingBits b 0 ||| eventRingBits b 1 ||| eventRingBits b 2 ||| eventRingBits b 3 ||| placeAt 2048 104 b.systemRing |||
  vectorBits b 0 ||| vectorBits b 1 ||| vectorBits b 2 ||| vectorBits b 3 ||| vectorBits b 4 ||| vectorBits b 5

/-! ### The register window (R176, R177) -/

/-- The command that one whole 32-bit write of the window stands for: the row of the register that has behaviour of its own,
and REGISTER_WRITE for every other offset, every CONTROL value that is no command, and every write that does not cover all
four bytes. -/
def commandOfWrite (offset : BitVec 12) (value : BitVec 32) (enables : BitVec 4) : Instr :=
  if enables = 0xF#4 then
    match offset.toNat with
    | 0x008 =>
      if value = 1#32 then .attach
      else if value = 2#32 then .detach
      else if value = 4#32 then .reset
      else .registerWrite offset value enables
    | 0x020 => .cmdTail value
    | 0x024 => .cplHead value
    | 0x030 => .evtHead 0 value
    | 0x034 => .evtHead 1 value
    | 0x038 => .evtHead 2 value
    | 0x03C => .evtHead 3 value
    | _ => .registerWrite offset value enables
  else .registerWrite offset value enables

/-- A wide write of the window, given as its 32-bit words with their byte enables, is taken as separate 32-bit accesses in ascending
order of offset (R176). That the words of a write which runs past offset FFFh fall at 000h onward is the model's (DESIGN CHOICE, log
entry 22): the manual says nothing of such an access. -/
def commandsOfWrite : BitVec 12 → List (BitVec 32 × BitVec 4) → List Instr
  | _, [] => []
  | offset, (value, enables) :: rest => commandOfWrite offset value enables :: commandsOfWrite (offset + 4#12) rest

/-- A 64-bit write of the window is taken as two 32-bit accesses in ascending order of offset (R176). -/
def commandsOfWrite64 (offset : BitVec 12) (value : BitVec 64) (enables : BitVec 8) : List Instr :=
  commandsOfWrite offset
    [(value.extractLsb' 0 32, enables.extractLsb' 0 4), (value.extractLsb' 32 32, enables.extractLsb' 4 4)]

/-! ### The opcode table's words -/

/-- The command that a word of the opcode table spells: none, since no row of the table has bits. -/
def decodeTableWord (_nbits _w : Nat) : Option Instr := none

end Sys2Proof
end

