-- ==== Sys2Proof/Config.lean ====
section
/-! DEFINITION. The part's fixed numbers, each with the rule that states it, and the FREE VALUES: results the manual
does not state, as constants without a body, so that no proof can lean on what they are. -/

namespace Sys2Proof.Config

/-- Entries of the staging queue (R58, R60). -/
abbrev stagingEntries : Nat := 512

/-- Entries of the staging queue that line records may take (R60). -/
abbrev stagingLineEntries : Nat := 504

/-- The release margin added to the largest debounce time, µs (R19). -/
abbrev releaseMargin : Nat := 500

/-- Entries of the event archive (R94). -/
abbrev archiveEntries : Nat := 16384

/-- Loss of lock: µs in LOCKED without an accepted pulse (R48). -/
abbrev lossTime : Nat := 2500000

/-- Consecutive accepted pulses that lock the timebase (R42, R45). -/
abbrev lockRun : Nat := 4

/-- Consecutive rejected pulses that lose the lock (R42, R47). -/
abbrev unlockRun : Nat := 3

/-- The DMA timeout, 50 ms in µs (R127, R128). -/
abbrev dmaTimeout : Nat := 50000

/-- The longest an archive read waits after the event that calls for it, µs (R102, R106). -/
abbrev readSpan : Nat := 10

/-- µs in one millisecond (R38). -/
abbrev perMilli : Nat := 1000

/-- µs in one second (R38). -/
abbrev perSecond : Nat := 1000000

/-- The elapsed count is a 64-bit count (R38); at this value it has run out. -/
abbrev elapsedLimit : Nat := 2 ^ 64

/-- FREE VALUE (log entry 2). What a 64-bit field holds for a time value or sequence number of 2^64 or more. R39 and R68 say
that neither count gets there within the part's operating life and state no field content beyond it. -/
opaque fieldPast64 : Nat → BitVec 64

/-- FREE VALUE (log entry 3). The link address of a ring entry whose base plus offset is 2^64 or more (the two arguments are
the base and the offset). Chapter 7 gives the address as the sum and states no result past the 64-bit address. -/
opaque addressPast64 : Nat → Nat → BitVec 64

end Sys2Proof.Config
end

