-- ==== Sys2Proof/Machine/State.lean ====
section
/-! DEFINITION. The state of the part as plain data: the capture side, the host side, what has been put on the link, and the
commands that wait; and the state right after a power-on reset. -/

namespace Sys2Proof.Machine

/-- Why the machine stops. -/
inductive Fault where
  /-- Raised by the idle step alone, when the 64-bit elapsed count has run out. R38 says that it does not wrap within the part's
  operating life and states nothing after. Safe: the model stops where the manual says nothing. -/
  | elapsedCountExhausted
  deriving DecidableEq, Repr

/-- Why a command has no meaning here. -/
inductive Refusal where
  /-- Raised by an arm of `exec` whose command has no meaning yet. No arm is left so. Safe: the model stops. -/
  | notModelled (mnemonic : String)
  deriving DecidableEq, Repr

/-! ### The capture side -/

/-- The role of a line (R1). -/
inductive Role where
  | off
  | event
  | count
  deriving DecidableEq, Repr

/-- Which confirmed transitions a line reports or counts (R1, R11). -/
inductive Report where
  | none
  | rising
  | falling
  | both
  deriving DecidableEq, Repr

/-- The quality of the time value (R42). -/
inductive Quality where
  | unset
  | free
  | locked
  | holdover
  deriving DecidableEq, Repr

/-- A stamp: what the timebase holds at one instant (R41). -/
structure Stamp where
  generation : BitVec 32
  timeValue : Nat
  quality : Quality
  deriving DecidableEq, Repr

/-- The line record, a line's configuration (R1): debounce in µs, chatter window and quiet time in ms. -/
structure LineConfig where
  role : Role
  invert : Bool
  report : Report
  debounce : Nat
  chatterLimit : Nat
  chatterWindow : Nat
  quietTime : Nat
  group : GroupNo
  deriving DecidableEq, Repr

/-- The qualifier state of a line with the data it holds (section 1.2). -/
inductive Qualifier where
  | off
  | stable (level : Level)
  | candidate (level target : Level) (capture : Nat) (stamp : Stamp)
  deriving DecidableEq, Repr

/-- The chatter state of a line with its count and the expiry instant of the timer that runs in it (section 2.1): none in
QUIET, the window timer in COUNTING, the quiet timer in CHATTERING. -/
inductive Chatter where
  | quiet
  | counting (count windowExpiry : Nat)
  | chattering (quietExpiry : Nat)
  deriving DecidableEq, Repr

/-- All the part keeps of one line. -/
structure Line where
  /-- The line record (R1). -/
  config : LineConfig
  /-- The most recent sample taken by the qualifier (R2). -/
  raw : Level
  /-- The qualifier state (R3). -/
  qualifier : Qualifier
  /-- The chatter state, count and timers (R21). -/
  chatter : Chatter
  /-- The counter (R32). -/
  counter : BitVec 32
  /-- Candidates cancelled by a raw return (R10). -/
  glitchCount : BitVec 32
  /-- Confirmed transitions (R10). -/
  transitionCount : BitVec 32
  /-- Line records of the line that were shed (R87). -/
  shedCount : BitVec 32
  /-- Chatter episodes begun (R30). -/
  episodeCount : BitVec 32
  deriving DecidableEq, Repr

/-- The timebase but for the elapsed count (section 3.1). -/
structure Timebase where
  timeValue : Nat
  generation : BitVec 32
  quality : Quality
  acceptedRun : BitVec 32
  rejectedRun : BitVec 32
  lastAccepted : Option Nat
  holdoverEntry : Option Nat
  /-- The expiry instant of a running hold; what remains of the hold is this minus now (R46). -/
  holdExpiry : Option Nat
  syncEnable : Bool
  activeEdge : Edge
  /-- µs. -/
  tolerance : Nat
  /-- s. -/
  holdoverLimit : Nat
  deriving DecidableEq, Repr

/-- The kinds of event records (R178). -/
inductive RecordKind where
  | edge
  | chatterOn
  | chatterOff
  | count
  | countWrap
  | gap
  | timeStep
  deriving DecidableEq, Repr

/-- An entry of the staging queue (R58): line `none` is FFh, class `none` is the system class. -/
structure Entry where
  kind : RecordKind
  line : Option LineNo
  level : Level
  group : GroupNo
  stamp : Stamp
  capture : Nat
  payload : BitVec 64
  cls : Option ClassNo
  ring : RingNo
  deriving DecidableEq, Repr

/-- An entry of the group table (R79). -/
structure Group where
  cls : ClassNo
  ring : RingNo
  enabled : Bool
  deriving DecidableEq, Repr

/-- The shed tally of one event ring (R86): class `c` is bit `c` of the mask. -/
structure Tally where
  count : BitVec 32
  classes : BitVec 4
  deriving DecidableEq, Repr

/-- An archive entry (R95): the stored 32 bytes and the stored check code. -/
structure ArchiveEntry where
  record : Record32
  code : BitVec 16
  deriving DecidableEq, Repr

/-- The two bounds of an archive that is not empty (R94). -/
structure ArchiveBounds where
  oldest : Nat
  newest : Nat
  deriving DecidableEq, Repr

/-- The event archive (R94): the bounds, kept apart from the entries, and the entries, oldest first. -/
structure Archive where
  bounds : Option ArchiveBounds
  entries : List ArchiveEntry
  deriving DecidableEq, Repr

/-- The capture side. -/
structure Capture where
  /-- µs since power-on (R38). -/
  elapsed : Nat
  /-- The last sample of SYNC (R44). -/
  syncLevel : Level
  lines : Vector Line 48
  timebase : Timebase
  /-- Ascending release key, equal keys in the order of insertion (R59). -/
  staging : List Entry
  highWater : Nat
  /-- µs (R19). -/
  horizon : Nat
  /-- The number of the next release step (R68). -/
  sequence : Nat
  groups : Vector Group 8
  tallies : Vector Tally 4
  archive : Archive
  deriving DecidableEq, Repr

/-! ### The host side -/

/-- The command ring of a session (R114). -/
structure CommandRing where
  base : BitVec 64
  size : Nat
  producer : Nat
  consumer : Nat
  deriving DecidableEq, Repr

/-- The completion ring or an event ring of a session (R114). -/
structure HostRing where
  base : BitVec 64
  size : Nat
  producer : Nat
  consumer : Nat
  phase : Bool
  deriving DecidableEq, Repr

/-- What a due memory write is for; its issue posts to a vector, finishes a command, or neither (R126, R169). -/
inductive WriteSource where
  /-- A completion record. -/
  | completion
  /-- An event record of the ring. -/
  | record (ring : RingNo)
  /-- The result buffer of the command in execution. -/
  | buffer
  /-- A notification message of the vector; vector 5 is the fault message. -/
  | message (vector : VectorNo)
  deriving DecidableEq, Repr

/-- A memory write that is due and not yet issued (R126, R128). -/
structure DueWrite where
  source : WriteSource
  address : BitVec 64
  data : List Byte
  dueAt : Nat
  deriving DecidableEq, Repr

/-- A memory write as the link carries it. -/
structure LinkWrite where
  address : BitVec 64
  data : List Byte
  deriving DecidableEq, Repr

/-- The command engine (R121, R122). -/
inductive CommandEngine where
  | idle
  /-- A read of 64 bytes is in flight, due since `dueAt`, with the number it was issued under. -/
  | reading (address : BitVec 64) (dueAt number : Nat)
  /-- A command waits for its result buffer's write to be issued (R142). -/
  | executing (kind : Byte) (tag : BitVec 16)
  deriving DecidableEq, Repr

/-- What the archive engine holds for either archive command (R99). -/
structure ArchiveContext where
  tag : BitVec 16
  firstRequested : Nat
  rangeStart : Nat
  rangeEnd : Nat
  next : Nat
  done : Nat
  failures : Nat
  /-- The instant from which the 10 µs of the next read count (R102, R106). -/
  readFrom : Nat
  deriving DecidableEq, Repr

/-- A copy read and waiting for a ring slot (R102): the stored bytes, and whether the read was a check mismatch. -/
structure HeldCopy where
  record : Record32
  failed : Bool
  deriving DecidableEq, Repr

/-- The archive engine (R99). -/
inductive ArchiveEngine where
  | idle
  | replaying (context : ArchiveContext) (ring : RingNo) (held : Option HeldCopy)
  | verifying (context : ArchiveContext) (crc : BitVec 32)
  deriving DecidableEq, Repr

/-- One notification vector (R168): delay in µs. -/
structure NotifyVector where
  armed : Bool
  count : Nat
  timer : Option Nat
  threshold : Nat
  delay : Nat
  address : BitVec 64
  data : BitVec 32
  deriving DecidableEq, Repr

/-- All the host side holds only while a session is ATTACHED (R114, R168, R99). -/
structure Attached where
  commandRing : CommandRing
  completionRing : HostRing
  /-- An absent event ring is `none`. -/
  eventRings : Vector (Option HostRing) 4
  systemRing : RingNo
  vectors : Vector NotifyVector 6
  command : CommandEngine
  archiveEngine : ArchiveEngine
  /-- Memory writes that are due and not yet issued, in the order in which they became due (R126). -/
  due : List DueWrite
  deriving DecidableEq, Repr

/-- The session state (R155) with what the part holds in it. -/
inductive Session where
  | detached
  /-- The read of the 256 bytes at `address` is in flight, due since `dueAt` (R158), with the number it was issued under. -/
  | attaching (address : BitVec 64) (dueAt number : Nat)
  | attached (host : Attached)
  /-- The fault message, where it is due and not yet issued (R163). -/
  | faulted (message : Option DueWrite)
  deriving DecidableEq, Repr

/-- The fault codes (R164). -/
inductive FaultCode where
  | none
  | initBusError
  | initInvalid
  | readBusError
  | writeBusError
  | badTailIndex
  | badHeadIndex
  deriving DecidableEq, Repr

/-- The cause of the latest reset (R164). -/
inductive ResetCause where
  | powerOn
  | link
  | host
  deriving DecidableEq, Repr

/-- The host side: the register window's own state and the session. -/
structure HostSide where
  initAddrLo : BitVec 32
  initAddrHi : BitVec 32
  faultCode : FaultCode
  initFieldIndex : BitVec 6
  faultNotifyFailed : Bool
  resetCause : ResetCause
  session : Session
  deriving DecidableEq, Repr

/-- The state of the part. -/
structure State where
  capture : Capture
  host : HostSide
  /-- The MODEL's own: every memory write issued onto the link, newest first (log entry 5). -/
  link : List LinkWrite
  /-- The MODEL's own: how many DMA reads have been issued, which is the number of the next one. A completion carries the number of the
  read it answers, so that one which arrives for an abandoned read is told from the read in flight (R154, R161; log entry 9). -/
  reads : Nat
  /-- The MODEL's own: the commands that wait, first in, first out (log entry 1). -/
  pending : List Instr
  deriving DecidableEq, Repr

/-! ### The machine after a power-on reset -/

/-- The line record after a power-on reset (R1). -/
def LineConfig.powerOn : LineConfig where
  role := .off
  invert := false
  report := .both
  debounce := 1000
  chatterLimit := 0
  chatterWindow := 1000
  quietTime := 5000
  group := 0

/-- A line after a power-on reset whose first sample is `raw` (R1, R2, R3, R10, R21, R30, R32, R87). -/
def Line.powerOn (raw : Level) : Line where
  config := LineConfig.powerOn
  raw := raw
  qualifier := .off
  chatter := .quiet
  counter := 0
  glitchCount := 0
  transitionCount := 0
  shedCount := 0
  episodeCount := 0

/-- The timebase after a power-on reset (section 3.1). -/
def Timebase.powerOn : Timebase where
  timeValue := 0
  generation := 0
  quality := .unset
  acceptedRun := 0
  rejectedRun := 0
  lastAccepted := none
  holdoverEntry := none
  holdExpiry := none
  syncEnable := false
  activeEdge := .rising
  tolerance := 1000
  holdoverLimit := 600

/-- The capture side after a power-on reset (R166) with the first samples of the 48 lines and of SYNC. -/
def Capture.powerOn (levels : BitVec 48) (sync : Level) : Capture where
  elapsed := 0
  syncLevel := sync
  lines := Vector.ofFn fun i => Line.powerOn (levels.getLsbD i.val)
  timebase := Timebase.powerOn
  staging := []
  highWater := 0
  horizon := Config.releaseMargin
  sequence := 1
  groups := Vector.replicate 8 { cls := 0, ring := 0, enabled := true }
  tallies := Vector.replicate 4 { count := 0, classes := 0 }
  archive := { bounds := none, entries := [] }

/-- The host side after a reset of the given cause (R164, R165, R166). -/
def HostSide.afterReset (cause : ResetCause) : HostSide where
  initAddrLo := 0
  initAddrHi := 0
  faultCode := .none
  initFieldIndex := 0
  faultNotifyFailed := false
  resetCause := cause
  session := .detached

/-- The machine right after a power-on reset. The first samples of the pins are all 0: DESIGN CHOICE, unsafe (log entry 4). -/
def State.reset : State where
  capture := Capture.powerOn 0 false
  host := HostSide.afterReset .powerOn
  link := []
  reads := 0
  pending := []

end Sys2Proof.Machine
end

