-- ==== Sys2Proof/Machine/Layout.lean ====
section
/-! DEFINITION. The codes and byte layouts of what the part writes (R177 to R180): event records, completion records and the two
result buffers. -/

namespace Sys2Proof.Machine

/-- A count as a 64-bit field: the count itself below 2^64, and a FREE VALUE from there on (log entry 2). -/
def word64 (n : Nat) : BitVec 64 :=
  if n < 2 ^ 64 then BitVec.ofNat 64 n else Config.fieldPast64 n

/-! ### Codes (R177, R178, R179) -/

/-- The quality codes of STATUS, records and completions (R177). -/
def Quality.code : Quality → BitVec 2
  | .unset => 0
  | .free => 1
  | .locked => 2
  | .holdover => 3

/-- The kind codes of event records (R178). -/
def RecordKind.code : RecordKind → Byte
  | .edge => 0x01
  | .chatterOn => 0x02
  | .chatterOff => 0x03
  | .count => 0x04
  | .countWrap => 0x05
  | .gap => 0x08
  | .timeStep => 0x09

/-- The line field: 0 to 47, or FFh for GAP and TIME_STEP (R178). -/
def lineCode : Option LineNo → Byte
  | some i => BitVec.ofNat 8 i.val
  | none => 0xFF

/-- The statuses of completions (R133). -/
inductive Status where
  | success
  | badKind
  | badField
  | engineBusy
  | ringAbsent
  | stagingFull
  | generationExhausted
  | rangeGone
  | rangeFuture
  | overtaken
  | aborted
  | notFound
  deriving DecidableEq, Repr

/-- The status codes (R179). -/
def Status.code : Status → Byte
  | .success => 0x00
  | .badKind => 0x01
  | .badField => 0x02
  | .engineBusy => 0x03
  | .ringAbsent => 0x04
  | .stagingFull => 0x05
  | .generationExhausted => 0x06
  | .rangeGone => 0x07
  | .rangeFuture => 0x08
  | .overtaken => 0x09
  | .aborted => 0x0A
  | .notFound => 0x0B

/-- The fault codes of STATUS (R177). -/
def FaultCode.code : FaultCode → BitVec 3
  | .none => 0
  | .initBusError => 1
  | .initInvalid => 2
  | .readBusError => 3
  | .writeBusError => 4
  | .badTailIndex => 5
  | .badHeadIndex => 6

/-- The reset causes of STATUS (R177). -/
def ResetCause.code : ResetCause → BitVec 2
  | .powerOn => 0
  | .link => 1
  | .host => 2

/-- The session states of STATUS (R177). -/
def Session.code : Session → BitVec 2
  | .detached => 0
  | .attaching _ _ _ => 1
  | .attached _ => 2
  | .faulted _ => 3

/-! ### The event record (R178) -/

/-- A released record, before its flags of R103 and R116. -/
structure EventRecord where
  kind : RecordKind
  line : Option LineNo
  level : Level
  group : GroupNo
  stamp : Stamp
  sequence : Nat
  payload : BitVec 64
  deriving DecidableEq, Repr

/-- The three flags that the archive holds clear (R95): phase, REPLAY and CHECK_FAILED, bits 0 to 2 of byte 1. -/
def flagMask : Record32 := 0x700#256

/-- The bits of a record that its layout does not assign: bits 3, 6 and 7 of byte 1 and bits 7 to 4 of byte 3 (R178). -/
def unassignedMask : Record32 := 0xF000C800#256

/-- A record as the part writes it on a ring: its phase, REPLAY and CHECK_FAILED flags set as given (R103, R116), its unassigned bits
0 (R178), every other bit kept. Only a disturbance sets an unassigned bit of a stored record (R98), and R103 has a copy carry what
is stored: that a copy's unassigned bits are 0 all the same is the model's (DEDUCED, log entry 12). -/
def withFlags (phase isReplay checkFailed : Bool) (r : Record32) : Record32 :=
  (r &&& ~~~(flagMask ||| unassignedMask)) |||
    placeAt 256 1 (BitVec.ofBool false ++ BitVec.ofBool checkFailed ++ BitVec.ofBool isReplay ++ BitVec.ofBool phase)

/-- The flags byte of a record in the archive: the time quality in bits 5 to 4, the rest clear (R95, R178). -/
def qualityFlags (q : Quality) : Byte := q.code.setWidth 8 <<< 4

/-- Byte 3 of a record: the level in bit 0, the group in bits 3 to 1 (R178). -/
def levelGroup (level : Level) (group : GroupNo) : Byte :=
  BitVec.ofNat 8 (2 * group.val + level.toNat)

/-- The 32 bytes of a released record in the form the archive holds: phase, REPLAY and CHECK_FAILED clear (R95, R178). -/
def EventRecord.archived (e : EventRecord) : Record32 :=
  placeAt 256 0 e.kind.code ||| placeAt 256 1 (qualityFlags e.stamp.quality) ||| placeAt 256 2 (lineCode e.line) |||
  placeAt 256 3 (levelGroup e.level e.group) ||| placeAt 256 4 e.stamp.generation ||| placeAt 256 8 (word64 e.sequence) |||
  placeAt 256 16 (word64 e.stamp.timeValue) ||| placeAt 256 24 e.payload

/-- The payload of a GAP: the count in bytes 24 to 27, the class mask in byte 28 (R178). -/
def gapPayload (t : Tally) : BitVec 64 := placeAt 64 0 t.count ||| placeAt 64 4 (t.classes.setWidth 8)

/-! ### The completion record (R179) -/

/-- The kind code of an unsolicited ATTACHED completion (R179). -/
def attachedKind : Byte := 0x80

/-- What a block hands to the completion writer (R133). -/
structure Completion where
  kind : Byte
  tag : BitVec 16
  status : Status
  fieldIndex : Nat
  /-- The 24 result bytes, offsets 8 to 31. -/
  result : BitVec 192
  deriving DecidableEq, Repr

/-- The 32 bytes of a completion with the phase and the command head that the completion writer sets (R123, R179). -/
def Completion.bits (c : Completion) (phase : Bool) (head : Nat) : Record32 :=
  placeAt 256 0 c.kind ||| placeAt 256 1 (BitVec.ofBool phase) ||| placeAt 256 2 c.tag ||| placeAt 256 4 c.status.code |||
  placeAt 256 5 (BitVec.ofNat 8 c.fieldIndex) ||| placeAt 256 6 (BitVec.ofNat 16 head) ||| placeAt 256 8 c.result

/-- The result of CONFIGURE_LINES: the horizon (R135). -/
def horizonResult (horizon : Nat) : BitVec 192 := placeAt 192 0 (BitVec.ofNat 32 horizon)

/-- The result of CONFIGURE_TIMEBASE: the quality (R137). -/
def qualityResult (q : Quality) : BitVec 192 := placeAt 192 0 (q.code.setWidth 8)

/-- The result of SET_TIME: the new generation (R138). -/
def generationResult (g : BitVec 32) : BitVec 192 := placeAt 192 0 g

/-- The result of GET_TIME (R139). -/
def timeResult (t : Timebase) (holdRemaining : Nat) : BitVec 192 :=
  placeAt 192 0 (word64 t.timeValue) ||| placeAt 192 8 t.generation ||| placeAt 192 12 t.acceptedRun |||
  placeAt 192 16 (BitVec.ofNat 32 holdRemaining) ||| placeAt 192 20 (t.quality.code.setWidth 8)

/-- The result of SNAPSHOT_COUNTERS (R143). -/
def stagedResult (staged shed : Nat) : BitVec 192 :=
  placeAt 192 0 (BitVec.ofNat 16 staged) ||| placeAt 192 2 (BitVec.ofNat 16 shed)

/-- The result of REPLAY (R147). -/
def replayResult (first delivered failures : Nat) : BitVec 192 :=
  placeAt 192 0 (word64 first) ||| placeAt 192 8 (BitVec.ofNat 32 delivered) ||| placeAt 192 12 (BitVec.ofNat 32 failures)

/-- The result of VERIFY_ARCHIVE (R148). -/
def verifyResult (first covered failures : Nat) (crc : BitVec 32) : BitVec 192 :=
  placeAt 192 0 (word64 first) ||| placeAt 192 8 (BitVec.ofNat 32 covered) ||| placeAt 192 12 (BitVec.ofNat 32 failures) |||
  placeAt 192 16 crc

/-- The result of the ATTACHED completion (R160). -/
def attachedResult (firstLive : Nat) (t : Timebase) (cause : ResetCause) : BitVec 192 :=
  placeAt 192 0 (word64 firstLive) ||| placeAt 192 8 t.generation ||| placeAt 192 12 (t.quality.code.setWidth 8) |||
  placeAt 192 13 (cause.code.setWidth 8)

/-! ### The result buffers (R180) -/

/-- The stable level that SNAPSHOT_LEVELS reports: 0 for a line in OFF (R141). -/
def Qualifier.level : Qualifier → Level
  | .off => false
  | .stable level => level
  | .candidate level _ _ _ => level

/-- Whether the chatter state is CHATTERING (R21). -/
def Chatter.isChattering : Chatter → Bool
  | .chattering _ => true
  | .quiet | .counting _ _ => false

/-- A mask of lines: line `i` at bit `i` of a 64-bit field (R178). -/
def lineMask (lines : Vector Line 48) (p : Line → Bool) : BitVec 64 :=
  (List.finRange 48).foldl (fun m i => m ||| ((BitVec.ofBool (p (lines.get i))).setWidth 64 <<< i.val)) 0

/-- The 40 bytes of the SNAPSHOT_LEVELS buffer (R141, R180). -/
def levelsBuffer (c : Capture) : List Byte :=
  bytesOf 8 (lineMask c.lines fun l => l.qualifier.level) ++
  bytesOf 8 (lineMask c.lines fun l => decide (l.config.role ≠ .off)) ++
  bytesOf 8 (lineMask c.lines fun l => l.chatter.isChattering) ++
  bytesOf 8 (word64 c.timebase.timeValue) ++ bytesOf 4 c.timebase.generation ++
  bytesOf 4 (c.timebase.quality.code.setWidth 32)

/-- One 32-bit figure of each line, in line order (R180). -/
def lineFigures (lines : Vector Line 48) (f : Line → BitVec 32) : List Byte :=
  (List.finRange 48).flatMap fun i => bytesOf 4 (f (lines.get i))

/-- The eight bytes of one tally in the statistics buffer: count, class mask, three bytes of 0 (R180). -/
def tallyBytes (t : Tally) : List Byte := bytesOf 4 t.count ++ bytesOf 4 (t.classes.setWidth 32)

/-- The oldest sequence number held, 0 when the archive is empty (R97). -/
def Archive.oldest (a : Archive) : Nat :=
  match a.bounds with
  | none => 0
  | some b => b.oldest

/-- The newest sequence number held, 0 when the archive is empty (R97). -/
def Archive.newest (a : Archive) : Nat :=
  match a.bounds with
  | none => 0
  | some b => b.newest

/-- The 824 bytes of the READ_STATISTICS buffer (R144, R180). -/
def statisticsBuffer (c : Capture) : List Byte :=
  lineFigures c.lines (fun l => l.glitchCount) ++ lineFigures c.lines (fun l => l.transitionCount) ++
  lineFigures c.lines (fun l => l.shedCount) ++ lineFigures c.lines (fun l => l.episodeCount) ++
  (List.finRange 4).flatMap (fun n => tallyBytes (c.tallies.get n)) ++
  bytesOf 8 (BitVec.ofNat 64 c.highWater) ++ bytesOf 8 (word64 c.archive.oldest) ++ bytesOf 8 (word64 c.archive.newest)

end Sys2Proof.Machine
end

