-- ==== Sys2Proof/Machine/Crc.lean ====
section
/-! DEFINITION. The check code of an archive entry (R95) and the CRC-32 of VERIFY_ARCHIVE (R107). -/

namespace Sys2Proof.Machine

/-- One bit into a CRC-16 register of generator 1021h. -/
def crc16Bit (register : BitVec 16) (bit : Bool) : BitVec 16 :=
  if register.msb = bit then register <<< 1 else (register <<< 1) ^^^ 0x1021#16

/-- One byte into the CRC-16, most significant bit first (R95). -/
def crc16Byte (register : BitVec 16) (byte : Byte) : BitVec 16 :=
  (List.range 8).foldl (fun r i => crc16Bit r (byte.getLsbD (7 - i))) register

/-- The CRC-16 of a run of bytes: initial value FFFFh, no reflection, no inversion (R95). -/
def crc16 (bytes : List Byte) : BitVec 16 := bytes.foldl crc16Byte 0xFFFF#16

/-- The check code of 32 stored bytes (R95). -/
def checkCode (r : Record32) : BitVec 16 := crc16 (bytesOf 32 r)

/-- The initial value of the CRC-32 register (R107). -/
def crc32Initial : BitVec 32 := 0xFFFFFFFF#32

/-- One bit into a CRC-32 register of generator 04C1_1DB7h. -/
def crc32Bit (register : BitVec 32) (bit : Bool) : BitVec 32 :=
  if register.msb = bit then register <<< 1 else (register <<< 1) ^^^ 0x04C11DB7#32

/-- One byte into the CRC-32, least significant bit first (R107). -/
def crc32Byte (register : BitVec 32) (byte : Byte) : BitVec 32 :=
  (List.range 8).foldl (fun r i => crc32Bit r (byte.getLsbD i)) register

/-- A run of bytes into the CRC-32. -/
def crc32Feed (register : BitVec 32) (bytes : List Byte) : BitVec 32 := bytes.foldl crc32Byte register

/-- A 32-bit register reflected: bit `i` of the one is bit `31 - i` of the other. -/
def reflect32 (x : BitVec 32) : BitVec 32 :=
  (List.range 32).foldl (fun r i => r ||| ((BitVec.ofBool (x.getLsbD i)).setWidth 32 <<< (31 - i))) 0

/-- The CRC-32 that a register gives: reflected, then its ones' complement (R107). -/
def crc32Final (register : BitVec 32) : BitVec 32 := ~~~ reflect32 register

end Sys2Proof.Machine
end

