-- ==== Sys2Proof/Machine/Ops.lean ====
section
/-! DEFINITION. The named operations every command goes through: counts, lines, the staging queue with its shedding decision,
records, the archive, ring indices and slots, the completion writer and the ring writer, and the end of a session. -/

namespace Sys2Proof.Machine

/-! ### Counts -/

/-- A 32-bit count that saturates at FFFF_FFFFh (R10). -/
def satInc (n : BitVec 32) : BitVec 32 := if n = 0xFFFFFFFF#32 then n else n + 1#32

/-! ### Lines and stamps -/

/-- What the part keeps of line `i`. -/
def Capture.line (c : Capture) (i : LineNo) : Line := c.lines.get i

/-- Line `i` replaced. -/
def Capture.setLine (c : Capture) (i : LineNo) (l : Line) : Capture := { c with lines := c.lines.set i.val l }

/-- The logical level of a raw level: inverted when the line's invert field is 1 (R2). -/
def LineConfig.logical (cfg : LineConfig) (raw : Level) : Level := raw != cfg.invert

/-- The stamp the timebase holds at this instant (R41). -/
def Capture.stamp (c : Capture) : Stamp where
  generation := c.timebase.generation
  timeValue := c.timebase.timeValue
  quality := c.timebase.quality

/-- The entry of the group table for line `i` (R80). -/
def Capture.groupOf (c : Capture) (i : LineNo) : Group := c.groups.get (c.line i).config.group

/-- The shed tally of ring `n` (R86). -/
def Capture.tally (c : Capture) (n : RingNo) : Tally := c.tallies.get n

/-- The largest debounce time among the lines not in OFF (R19). -/
def largestDebounce (lines : Vector Line 48) : Nat :=
  (List.finRange 48).foldl
    (fun m i => if (lines.get i).config.role = .off then m else max m (lines.get i).config.debounce) 0

/-- The horizon recomputed from the line table (R19). -/
def Capture.recomputeHorizon (c : Capture) : Capture :=
  { c with horizon := largestDebounce c.lines + Config.releaseMargin }

/-! ### The staging queue (R58 to R62) and the shedding decision (R83 to R87) -/

/-- The line field of an entry as the release key compares it (R59). -/
def Entry.lineField (e : Entry) : Nat := (lineCode e.line).toNat

/-- Whether the release key of `a` is not greater than that of `b`: generation, time value, capture instant, line, in that
order (R59). -/
def Entry.keyLe (a b : Entry) : Bool :=
  if a.stamp.generation ≠ b.stamp.generation then decide (a.stamp.generation.toNat < b.stamp.generation.toNat)
  else if a.stamp.timeValue ≠ b.stamp.timeValue then decide (a.stamp.timeValue < b.stamp.timeValue)
  else if a.capture ≠ b.capture then decide (a.capture < b.capture)
  else decide (a.lineField ≤ b.lineField)

/-- An entry placed in its key position, after every held entry of equal key (R59, R61). -/
def insertByKey (e : Entry) : List Entry → List Entry
  | [] => [e]
  | x :: q => if x.keyLe e then x :: insertByKey e q else e :: x :: q

/-- Whether an entry is a line record: one of a class 0 to 3 (R58, R60). -/
def Entry.isLineRecord (e : Entry) : Bool := e.cls.isSome

/-- The number of line records held (R60). -/
def lineRecords (q : List Entry) : Nat := (q.filter Entry.isLineRecord).length

/-- The lowest class among the held line records (R84). -/
def lowestClass : List Entry → Option ClassNo
  | [] => none
  | e :: q =>
    match e.cls, lowestClass q with
    | none, low => low
    | some k, none => some k
    | some k, some m => some (if k ≤ m then k else m)

/-- The last entry of class `k` in the queue's order, and the queue without it: in a queue in key order it is the one with the
greatest key, and among equal keys the one inserted last (R84). -/
def takeLastOfClass (k : ClassNo) : List Entry → Option (Entry × List Entry)
  | [] => none
  | e :: q =>
    match takeLastOfClass k q with
    | some (victim, rest) => some (victim, e :: rest)
    | none => if e.cls = some k then some (e, q) else none

/-- A tally with one more shed record of the class (R86). -/
def Tally.add (t : Tally) (cls : Option ClassNo) : Tally where
  count := satInc t.count
  classes := match cls with
    | none => t.classes
    | some k => t.classes ||| (1#4 <<< k.val)

/-- A shed record counted in the tally of its ring and in the shed count of its line (R86, R87). -/
def Capture.countShed (e : Entry) (c : Capture) : Capture :=
  { c with
    tallies := c.tallies.set e.ring.val ((c.tally e.ring).add e.cls)
    lines := match e.line with
      | none => c.lines
      | some i => c.lines.set i.val { c.line i with shedCount := satInc (c.line i).shedCount } }

/-- Whether the staging queue is full for a line record (R60). -/
def stagingFullForLine (q : List Entry) : Bool :=
  !(decide (lineRecords q < Config.stagingLineEntries) && decide (q.length < Config.stagingEntries))

/-- An insertion that sheds nothing, with the high-water mark (R61, R62). -/
def Capture.insert (e : Entry) (c : Capture) : Capture :=
  { c with
    staging := insertByKey e c.staging
    highWater := max c.highWater (c.staging.length + 1) }

/-- What the shedding decision is (R83). -/
inductive Shedding where
  /-- The new record is discarded. -/
  | discard
  /-- The held record `victim` is evicted, and `rest` is what else is held. -/
  | evict (victim : Entry) (rest : List Entry)
  deriving DecidableEq, Repr

/-- The shedding decision for a new record over the held ones (R83, R84). -/
def sheddingDecision (e : Entry) (q : List Entry) : Shedding :=
  match e.cls, lowestClass q with
  | some new, some low =>
    if low < new then
      match takeLastOfClass low q with
      | some (victim, rest) => .evict victim rest
      | none => .discard
    else .discard
  | _, _ => .discard

/-- A record handed to the staging queue, as one event (R60, R61, R83), with whether it is held after its own insertion (R36). An
insertion that sheds, by eviction or discard, leaves the high-water mark as it is (R62, R83), also one that a clear has left below the
number of entries held (DEDUCED, log entry 7). -/
def Capture.stage (e : Entry) (c : Capture) : Capture × Bool :=
  if e.isLineRecord && stagingFullForLine c.staging then
    match sheddingDecision e c.staging with
    | .evict victim rest =>
      ({ c.countShed victim with staging := insertByKey e rest }, true)
    | .discard => (c.countShed e, false)
  else (c.insert e, true)

/-- The staging entry of a line record of line `i`, with the class and target ring of the line's group (R80). -/
def Capture.lineEntry (c : Capture) (i : LineNo) (kind : RecordKind) (level : Level) (stamp : Stamp) (capture : Nat)
    (payload : BitVec 64) : Entry where
  kind := kind
  line := some i
  level := level
  group := (c.line i).config.group
  stamp := stamp
  capture := capture
  payload := payload
  cls := some (c.groupOf i).cls
  ring := (c.groupOf i).ring

/-- A line record created and handed to the staging queue, if the line's group is enabled at this instant (R14). -/
def Capture.createLineRecord (i : LineNo) (kind : RecordKind) (level : Level) (stamp : Stamp) (capture : Nat)
    (payload : BitVec 64) (c : Capture) : Capture :=
  if (c.groupOf i).enabled then (c.stage (c.lineEntry i kind level stamp capture payload)).1 else c

/-- A CHATTER_OFF record of line `i`, stamped at this instant with the line's stable level (R17, R27). -/
def Capture.createChatterOff (i : LineNo) (c : Capture) : Capture :=
  c.createLineRecord i .chatterOff (c.line i).qualifier.level c.stamp c.elapsed 0

/-! ### Release (R63 to R69) and GAP records (R89) -/

/-- The first entry targeted at ring `n` in key order (R64). -/
def Capture.firstFor (c : Capture) (n : RingNo) : Option Entry := c.staging.find? fun e => decide (e.ring = n)

/-- Whether the elapsed count since the entry's capture instant has reached the horizon (R63). -/
def Capture.eligible (c : Capture) (e : Entry) : Bool := decide (e.capture + c.horizon ≤ c.elapsed)

/-- The first entry targeted at ring `n`, where it is eligible: a live claim of ring `n` (R66, R125). -/
def Capture.liveClaim (c : Capture) (n : RingNo) : Option Entry :=
  match c.firstFor n with
  | some e => if c.eligible e then some e else none
  | none => none

/-- The record released from a staged entry (R69). -/
def Entry.released (e : Entry) (sequence : Nat) : EventRecord where
  kind := e.kind
  line := e.line
  level := e.level
  group := e.group
  stamp := e.stamp
  sequence := sequence
  payload := e.payload

/-- The GAP record built from a tally and the key of the entry that follows it (R89). -/
def gapRecord (t : Tally) (next : Entry) (sequence : Nat) : EventRecord where
  kind := .gap
  line := none
  level := false
  group := 0
  stamp := next.stamp
  sequence := sequence
  payload := gapPayload t

/-! ### The event archive (R94 to R98) -/

/-- Whether the archive holds its 16 384 entries. -/
def Archive.full (a : Archive) : Bool := decide (Config.archiveEntries ≤ a.entries.length)

/-- A record appended with its check code as the newest entry, the oldest removed from a full archive (R96). -/
def Archive.append (a : Archive) (sequence : Nat) (r : Record32) : Archive where
  bounds := match a.bounds with
    | none => some { oldest := sequence, newest := sequence }
    | some b => some { oldest := if a.full then b.oldest + 1 else b.oldest, newest := sequence }
  entries := (if a.full then a.entries.drop 1 else a.entries) ++ [{ record := r, code := checkCode r }]

/-- The entry of a sequence number, found through the bounds (R94). -/
def Archive.find (a : Archive) (sequence : Nat) : Option ArchiveEntry :=
  match a.bounds with
  | none => none
  | some b => if b.oldest ≤ sequence ∧ sequence ≤ b.newest then a.entries[sequence - b.oldest]? else none

/-- Whether a read of the entry gives a check mismatch (R98). -/
def ArchiveEntry.mismatch (e : ArchiveEntry) : Bool := decide (checkCode e.record ≠ e.code)

/-- The stored content of the entry of a sequence number replaced; no effect where it is not held (R98). -/
def Archive.disturb (a : Archive) (sequence : Nat) (record : Record32) (code : BitVec 16) : Archive :=
  match a.bounds with
  | none => a
  | some b =>
    if b.oldest ≤ sequence ∧ sequence ≤ b.newest then
      { a with entries := a.entries.set (sequence - b.oldest) { record := record, code := code } }
    else a

/-! ### Ring indices (R115, R116) -/

/-- Entries between a consumer and a producer index, modulo the size (R115). -/
def occupiedCount (size producer consumer : Nat) : Nat := (producer + size - consumer) % size

/-- The commands waiting in the command ring (R115). -/
def CommandRing.waiting (r : CommandRing) : Nat := occupiedCount r.size r.producer r.consumer

/-- The command ring after the read of its next command has completed (R122). -/
def CommandRing.advance (r : CommandRing) : CommandRing := { r with consumer := (r.consumer + 1) % r.size }

/-- The occupied count of a ring (R115). -/
def HostRing.occupied (r : HostRing) : Nat := occupiedCount r.size r.producer r.consumer

/-- The free slots of a ring (R115). -/
def HostRing.freeSlots (r : HostRing) : Nat := r.size - 1 - r.occupied

/-- A ring after a claim: the producer index advances, and the phase value inverts where it wraps to 0 (R115, R116). -/
def HostRing.claim (r : HostRing) : HostRing :=
  { r with
    producer := (r.producer + 1) % r.size
    phase := if r.producer + 1 = r.size then !r.phase else r.phase }

/-- Whether a head write names an index from the consumer index forward to the producer index, inclusive (R119). -/
def HostRing.validHead (r : HostRing) (h : Nat) : Bool :=
  decide (h < r.size) && decide (occupiedCount r.size h r.consumer ≤ r.occupied)

/-- The link address of entry `i` of a ring (section 7.1); past the 64-bit address a FREE VALUE (log entry 3). -/
def slotAddress (base : BitVec 64) (entrySize i : Nat) : BitVec 64 :=
  if base.toNat + i * entrySize < 2 ^ 64 then BitVec.ofNat 64 (base.toNat + i * entrySize)
  else Config.addressPast64 base.toNat (i * entrySize)

/-! ### The host side of a session -/

/-- Event ring `n`, where it is present in the session (R114). -/
def Attached.eventRing (h : Attached) (n : RingNo) : Option HostRing := h.eventRings.get n

/-- A memory write made due at `now`, behind every write due before it (R126). -/
def Attached.makeDue (h : Attached) (source : WriteSource) (address : BitVec 64) (data : List Byte) (now : Nat) : Attached :=
  { h with due := h.due ++ [{ source := source, address := address, data := data, dueAt := now }] }

/-- A completion handed to the completion writer: it claims the slot at the producer index, takes the phase and the command
head, and its write becomes due (R123). -/
def Attached.handCompletion (h : Attached) (c : Completion) (now : Nat) : Attached :=
  { h with completionRing := h.completionRing.claim }.makeDue .completion
    (slotAddress h.completionRing.base 32 h.completionRing.producer)
    (bytesOf 32 (c.bits h.completionRing.phase h.commandRing.consumer)) now

/-- A record claims the slot at the producer index of event ring `n`, takes its phase, and its write becomes due (R124), with every
unassigned bit of the record 0 (R178), also of a copy of a disturbed entry (DEDUCED, log entry 12). -/
def Attached.claimSlot (h : Attached) (n : RingNo) (record : Record32) (isReplay checkFailed : Bool) (now : Nat) : Attached :=
  match h.eventRing n with
  | none => h
  | some r =>
    { h with eventRings := h.eventRings.set n.val (some r.claim) }.makeDue (.record n)
      (slotAddress r.base 32 r.producer) (bytesOf 32 (withFlags r.phase isReplay checkFailed record)) now

/-- The completions promised: one while an archive command runs (R121). -/
def ArchiveEngine.promised : ArchiveEngine → Nat
  | .idle => 0
  | .replaying _ _ _ | .verifying _ _ => 1

/-- The state with a session's host side replaced. -/
def State.withHost (s : State) (h : Attached) : State := { s with host := { s.host with session := .attached h } }

/-- A change of a session's host side; no change outside ATTACHED. -/
def State.onHost (f : Attached → Attached) (s : State) : State :=
  match s.host.session with
  | .attached h => s.withHost (f h)
  | .detached | .attaching _ _ _ | .faulted _ => s

/-- The state with the capture side changed. -/
def State.onCapture (f : Capture → Capture) (s : State) : State := { s with capture := f s.capture }

/-- Event ring `n` of the session, where a session is ATTACHED and the ring is present (R65). -/
def State.attachedRing (s : State) (n : RingNo) : Option HostRing :=
  match s.host.session with
  | .attached h => h.eventRing n
  | .detached | .attaching _ _ _ | .faulted _ => none

/-- Whether ring `n` can take a record (R65). -/
def State.canTake (s : State) (n : RingNo) : Bool :=
  match s.attachedRing n with
  | none => true
  | some r => decide (0 < r.freeSlots)

/-- A completion handed over in the session (R123). -/
def State.handCompletion (c : Completion) (s : State) : State := s.onHost fun h => h.handCompletion c s.capture.elapsed

/-! ### The end of a session (R154) and faults (R162, R163) -/

/-- The vector 5 message, due at `now` (R163, R173), its data least significant byte first (DESIGN CHOICE, log entry 20). -/
def Attached.faultMessage (h : Attached) (now : Nat) : DueWrite where
  source := .message 5
  address := (h.vectors.get 5).address
  data := bytesOf 4 (h.vectors.get 5).data
  dueAt := now

/-- A fault: its code is recorded, the session ends, the state becomes FAULTED, and the fault message becomes due when an
ATTACHED session has ended (R162). Outside ATTACHING and ATTACHED no fault arises. -/
def State.raiseFault (code : FaultCode) (s : State) : State :=
  match s.host.session with
  | .attached h =>
    { s with host := { s.host with
        faultCode := code, session := .faulted (some (h.faultMessage s.capture.elapsed)) } }
  | .attaching _ _ _ =>
    { s with host := { s.host with faultCode := code, session := .faulted none } }
  | .detached | .faulted _ => s

/-- A warm reset of the given cause: any session ends, and the host side is cleared (R165). The capture side and what is
already on the link are untouched. -/
def State.warmReset (cause : ResetCause) (s : State) : State := { s with host := HostSide.afterReset cause }

end Sys2Proof.Machine
end

