-- ==== Sys2Proof/Machine/ArchiveReader.lean ====
section
/-! DEFINITION. The archive engine (Chapter 6): the take of an archive command, its reads and grants, its completions, and an
abort; REPLAY_READ, REPLAY_GRANT and VERIFY_READ. -/

namespace Sys2Proof.Machine

/-- The kind codes of the two archive commands (R179). -/
def replayKind : Byte := 0x09
def verifyKind : Byte := 0x0A

/-! ### Ranges (R101) -/

/-- What a take finds of its range (R101). -/
inductive RangeOutcome where
  | future
  | gone
  | run (rangeStart rangeEnd : Nat)
  deriving DecidableEq, Repr

/-- The range of an archive command, from its first sequence number and count and the bounds (R101). -/
def Archive.range (a : Archive) (first count : Nat) : RangeOutcome :=
  match a.bounds with
  | none => .future
  | some b =>
    if b.newest < first then .future
    else if min (first + count - 1) b.newest < max first b.oldest then .gone
    else .run (max first b.oldest) (min (first + count - 1) b.newest)

/-- The context of a command that runs (R100). -/
def ArchiveContext.fresh (tag : BitVec 16) (first rangeStart rangeEnd now : Nat) : ArchiveContext where
  tag := tag
  firstRequested := first
  rangeStart := rangeStart
  rangeEnd := rangeEnd
  next := rangeStart
  done := 0
  failures := 0
  readFrom := now

/-! ### Completions (R105, R108) -/

/-- The first sequence number delivered or covered: the range start, or 0 when nothing was (R105, R108). -/
def ArchiveContext.firstDone (c : ArchiveContext) : Nat := if c.done = 0 then 0 else c.rangeStart

/-- The status of a command that finished its range (R105). -/
def ArchiveContext.finishedStatus (c : ArchiveContext) : Status :=
  if c.firstRequested < c.rangeStart then .rangeGone else .success

/-- The completion of a REPLAY that ran (R105). -/
def replayCompletion (c : ArchiveContext) (status : Status) : Completion where
  kind := replayKind
  tag := c.tag
  status := status
  fieldIndex := 0
  result := replayResult c.firstDone c.done c.failures

/-- The completion of a VERIFY_ARCHIVE that ran (R108). -/
def verifyCompletion (c : ArchiveContext) (crc : BitVec 32) (status : Status) : Completion where
  kind := verifyKind
  tag := c.tag
  status := status
  fieldIndex := 0
  result := verifyResult c.firstDone c.done c.failures (crc32Final crc)

/-- The engine hands over a completion and returns to IDLE, in one event (R105, R108). -/
def Attached.endArchiveCommand (h : Attached) (c : Completion) (now : Nat) : Attached :=
  { h with archiveEngine := .idle }.handCompletion c now

/-! ### REPLAY (R102 to R105) -/

/-- The engine reads the entry of the next sequence number of a REPLAY that holds no copy, or finds the command overtaken
(R102 step 1, R104). -/
def Attached.replayRead (a : Archive) (now : Nat) (h : Attached) : Attached :=
  match h.archiveEngine with
  | .replaying c ring none =>
    match a.find c.next with
    | some e => { h with archiveEngine := .replaying c ring (some { record := e.record, failed := e.mismatch }) }
    | none => h.endArchiveCommand (replayCompletion c .overtaken) now
  | .idle | .replaying _ _ (some _) | .verifying _ _ => h

/-- The context after the grant of a copy (R102 step 3). -/
def ArchiveContext.granted (c : ArchiveContext) (failed : Bool) (now : Nat) : ArchiveContext :=
  { c with
    done := c.done + 1
    failures := if failed then c.failures + 1 else c.failures
    next := c.next + 1
    readFrom := now }

/-- A REPLAY whose copy has just been granted goes on, or finishes after the copy of its range end (R102 step 4, R105). -/
def Attached.replayAdvance (c : ArchiveContext) (ring : RingNo) (now : Nat) (h : Attached) : Attached :=
  if c.rangeEnd < c.next then h.endArchiveCommand (replayCompletion c c.finishedStatus) now
  else { h with archiveEngine := .replaying c ring none }

/-- Whether the arbiter of ring `n` grants a waiting copy a slot: the ring has a free slot and there is no live claim
(R125). -/
def State.grantsCopy (s : State) (n : RingNo) : Bool :=
  match s.attachedRing n with
  | none => false
  | some r => decide (0 < r.freeSlots) && (s.capture.liveClaim n).isNone

/-- The held copy of a REPLAY claims a slot, where the arbiter grants one (R102 step 3, R125). -/
def State.replayGrant (s : State) : State :=
  s.onHost fun h =>
    match h.archiveEngine with
    | .replaying c ring (some copy) =>
      if s.grantsCopy ring then
        (h.claimSlot ring copy.record true copy.failed s.capture.elapsed).replayAdvance
          (c.granted copy.failed s.capture.elapsed) ring s.capture.elapsed
      else h
    | .idle | .replaying _ _ none | .verifying _ _ => h

/-! ### VERIFY_ARCHIVE (R106 to R108) -/

/-- The engine covers the next entry of a VERIFY_ARCHIVE, or finds the command overtaken (R106, R104). The bytes fed into the CRC-32
are those stored, also in an entry whose phase, REPLAY or CHECK_FAILED bit a disturbance has set (DEDUCED, log entry 21). -/
def Attached.verifyRead (a : Archive) (now : Nat) (h : Attached) : Attached :=
  match h.archiveEngine with
  | .verifying c crc =>
    match a.find c.next with
    | some e =>
      let c1 := c.granted e.mismatch now
      let crc1 := crc32Feed crc (bytesOf 32 e.record)
      if c1.rangeEnd < c1.next then h.endArchiveCommand (verifyCompletion c1 crc1 c1.finishedStatus) now
      else { h with archiveEngine := .verifying c1 crc1 }
    | none => h.endArchiveCommand (verifyCompletion c crc .overtaken) now
  | .idle | .replaying _ _ _ => h

/-! ### The take (R100) and an abort (R110) -/

/-- A completion with no result. -/
def Completion.plain (kind : Byte) (tag : BitVec 16) (status : Status) : Completion where
  kind := kind
  tag := tag
  status := status
  fieldIndex := 0
  result := 0

/-- The take of a REPLAY (R100): the ring, the engine, the range. -/
def Attached.takeReplay (a : Archive) (tag : BitVec 16) (first count : Nat) (ring : RingNo) (now : Nat) (h : Attached) :
    Attached :=
  if h.eventRing ring = none then h.handCompletion (.plain replayKind tag .ringAbsent) now
  else
    match h.archiveEngine with
    | .replaying _ _ _ | .verifying _ _ => h.handCompletion (.plain replayKind tag .engineBusy) now
    | .idle =>
      match a.range first count with
      | .future => h.handCompletion (.plain replayKind tag .rangeFuture) now
      | .gone => h.handCompletion (.plain replayKind tag .rangeGone) now
      | .run rangeStart rangeEnd =>
        { h with archiveEngine := .replaying (.fresh tag first rangeStart rangeEnd now) ring none }

/-- The take of a VERIFY_ARCHIVE (R100). -/
def Attached.takeVerify (a : Archive) (tag : BitVec 16) (first count now : Nat) (h : Attached) : Attached :=
  match h.archiveEngine with
  | .replaying _ _ _ | .verifying _ _ => h.handCompletion (.plain verifyKind tag .engineBusy) now
  | .idle =>
    match a.range first count with
    | .future => h.handCompletion (.plain verifyKind tag .rangeFuture) now
    | .gone => h.handCompletion (.plain verifyKind tag .rangeGone) now
    | .run rangeStart rangeEnd =>
      { h with archiveEngine := .verifying (.fresh tag first rangeStart rangeEnd now) crc32Initial }

/-- The completion, with status ABORTED, of the running archive command of the tag, where there is one (R110). -/
def ArchiveEngine.abortedCompletion (target : BitVec 16) : ArchiveEngine → Option Completion
  | .idle => none
  | .replaying c _ _ => if c.tag = target then some (replayCompletion c .aborted) else none
  | .verifying c crc => if c.tag = target then some (verifyCompletion c crc .aborted) else none

/-! ### The meanings -/

/-- REPLAY_READ (R102); without effect where no REPLAY waits to read. -/
def execReplayRead (s : State) : Host.Outcome State Fault Refusal :=
  .next (s.onHost (Attached.replayRead s.capture.archive s.capture.elapsed))

/-- REPLAY_GRANT (R125); without effect where no copy is held or the arbiter does not grant it a slot. -/
def execReplayGrant (s : State) : Host.Outcome State Fault Refusal := .next s.replayGrant

/-- VERIFY_READ (R106); without effect where no VERIFY_ARCHIVE runs. -/
def execVerifyRead (s : State) : Host.Outcome State Fault Refusal :=
  .next (s.onHost (Attached.verifyRead s.capture.archive s.capture.elapsed))

end Sys2Proof.Machine
end

