-- ==== Sys2Proof/Machine/Notifier.lean ====
section
/-! DEFINITION. The notifier (Chapter 10): postings, sends, the coalescing timer and armings of the six vectors, and
COALESCING_TIMER_EXPIRY. -/

namespace Sys2Proof.Machine

/-- Vector `v` of the session (R168). -/
def Attached.vector (h : Attached) (v : VectorNo) : NotifyVector := h.vectors.get v

/-- Vector `v` replaced. -/
def Attached.setVector (h : Attached) (v : VectorNo) (n : NotifyVector) : Attached :=
  { h with vectors := h.vectors.set v.val n }

/-- A vector sends: its message becomes due, and it is left DISARMED with count 0 and its timer idle (R171). That the 32 bits of the
message data go out least significant byte first is a DESIGN CHOICE, unsafe (log entry 20). -/
def Attached.send (h : Attached) (v : VectorNo) (now : Nat) : Attached :=
  (h.setVector v { h.vector v with armed := false, count := 0, timer := none }).makeDue
    (.message v) (h.vector v).address (bytesOf 4 (h.vector v).data) now

/-- A posting to a vector (R169): the count rises, and an ARMED vector sends, starts its timer, or waits. -/
def Attached.post (h : Attached) (v : VectorNo) (now : Nat) : Attached :=
  let n := { h.vector v with count := (h.vector v).count + 1 }
  let h' := h.setVector v n
  if n.armed then
    if n.threshold ≤ n.count then h'.send v now
    else if n.count = 1 then
      if n.delay = 0 then h'.send v now else h'.setVector v { n with timer := some (now + n.delay) }
    else h'
  else h'

/-- An arming of a vector by a valid head write (R172). -/
def Attached.arm (h : Attached) (v : VectorNo) (now : Nat) : Attached :=
  let n := { h.vector v with armed := true }
  let h' := h.setVector v n
  if n.threshold ≤ n.count then h'.send v now
  else if 1 ≤ n.count ∧ n.timer = none then
    if n.delay = 0 then h'.send v now else h'.setVector v { n with timer := some (now + n.delay) }
  else h'

/-- The vector of event ring `n` (section 10.1). -/
def ringVector (n : RingNo) : VectorNo := ⟨n.val + 1, by omega⟩

/-- Whether the coalescing timer of vector `v` has run out (R170). -/
def Attached.timerDue (h : Attached) (v : VectorNo) (now : Nat) : Bool :=
  match (h.vector v).timer with
  | none => false
  | some expiry => decide (expiry ≤ now)

/-- COALESCING_TIMER_EXPIRY (R170): the vector sends. An expiry that finds the timer idle or with a later expiry has no effect
(R174). -/
def execCoalescingTimerExpiry (v : VectorNo) (s : State) : Host.Outcome State Fault Refusal :=
  .next (s.onHost fun h => if h.timerDue v s.capture.elapsed then h.send v s.capture.elapsed else h)

end Sys2Proof.Machine
end

