-- ==== Sys2Proof/Machine/Operands.lean ====
section
/-! DEFINITION. The operands of host commands and of the initialisation block: the codes they hold, the ranges of R132 to R151, and
the field-by-field tests that find the first field that fails. -/

namespace Sys2Proof.Machine

/-- The role a code names (R179). -/
def roleOfCode (b : Byte) : Option Role :=
  match b.toNat with
  | 0 => some .off
  | 1 => some .event
  | 2 => some .count
  | _ => none

/-- The report selection a code names (R179). -/
def reportOfCode (b : Byte) : Option Report :=
  match b.toNat with
  | 0 => some .none
  | 1 => some .rising
  | 2 => some .falling
  | 3 => some .both
  | _ => none

/-- The active edge a code names (R179). -/
def edgeOfCode (b : Byte) : Option Edge :=
  match b.toNat with
  | 0 => some .rising
  | 1 => some .falling
  | _ => none

/-- A flag is in range when it holds 0 or 1 (R132). -/
def isFlag (b : Byte) : Bool := decide (b.toNat ≤ 1)

/-- Whether a number lies in a range, both ends included. -/
def inRange (low high n : Nat) : Bool := decide (low ≤ n) && decide (n ≤ high)

/-- The field index of the first test that fails, taking the tests in the order given (R132, R159). -/
def firstFailure : List (Nat × Bool) → Option Nat
  | [] => none
  | (index, ok) :: rest => if ok then firstFailure rest else some index

/-- The test of the tag, field 1: FFFFh is reserved (R131, R132). -/
def tagTest (tag : BitVec 16) : Nat × Bool := (1, decide (tag ≠ 0xFFFF#16))

/-- The tests of CONFIGURE_LINES (R135). -/
def linesFailure (tag : BitVec 16) (p : LineParams) : Option Nat :=
  firstFailure
    [tagTest tag,
     (2, decide (p.lineMask ≠ 0) && decide (p.lineMask.toNat < 2 ^ 48)),
     (3, (roleOfCode p.role).isSome),
     (4, isFlag p.invert),
     (5, (reportOfCode p.report).isSome),
     (6, inRange 0 200000 p.debounce.toNat),
     (7, decide (p.chatterLimit.toNat ≠ 1)),
     (8, inRange 1 60000 p.chatterWindow.toNat),
     (9, inRange 1 600000 p.quietTime.toNat),
     (10, inRange 0 7 p.group.toNat)]

/-- The line record that the parameters of an accepted CONFIGURE_LINES give (R1). -/
def lineConfigOf (p : LineParams) : LineConfig where
  role := (roleOfCode p.role).getD .off
  invert := p.invert.getLsbD 0
  report := (reportOfCode p.report).getD .both
  debounce := p.debounce.toNat
  chatterLimit := p.chatterLimit.toNat
  chatterWindow := p.chatterWindow.toNat
  quietTime := p.quietTime.toNat
  group := Fin.ofNat 8 p.group.toNat

/-- The tests of CONFIGURE_GROUP (section 8.3.2). -/
def groupFailure (tag : BitVec 16) (group cls ring enabled : Byte) : Option Nat :=
  firstFailure
    [tagTest tag, (2, inRange 0 7 group.toNat), (3, inRange 0 3 cls.toNat), (4, inRange 0 3 ring.toNat), (5, isFlag enabled)]

/-- The tests of CONFIGURE_TIMEBASE (R137). -/
def timebaseFailure (tag : BitVec 16) (enable edge : Byte) (tolerance limit : BitVec 32) : Option Nat :=
  firstFailure
    [tagTest tag, (2, isFlag enable), (3, (edgeOfCode edge).isSome), (4, inRange 1 50000 tolerance.toNat),
     (5, inRange 1 86400 limit.toNat)]

/-- The tests of SET_TIME (R138). -/
def timeFailure (tag : BitVec 16) (value : BitVec 64) : Option Nat :=
  firstFailure [tagTest tag, (2, decide (value.toNat < 2 ^ 63))]

/-- The tests of GET_TIME: the tag alone (section 8.3.5). -/
def getTimeFailure (tag : BitVec 16) : Option Nat := firstFailure [tagTest tag]

/-- The test of a result buffer address: a multiple of 8 (R141, R144). -/
def addressTest (address : BitVec 64) : Nat × Bool := (2, decide (address.toNat % 8 = 0))

/-- The tests of SNAPSHOT_LEVELS (R141). -/
def levelsFailure (tag : BitVec 16) (address : BitVec 64) : Option Nat :=
  firstFailure [tagTest tag, addressTest address]

/-- The tests of SNAPSHOT_COUNTERS (R143). -/
def countersFailure (tag : BitVec 16) (groupMask clear : Byte) : Option Nat :=
  firstFailure [tagTest tag, (2, decide (groupMask ≠ 0)), (3, isFlag clear)]

/-- The tests of READ_STATISTICS (R144). -/
def statisticsFailure (tag : BitVec 16) (address : BitVec 64) (clear : Byte) : Option Nat :=
  firstFailure [tagTest tag, addressTest address, (3, isFlag clear)]

/-- The tests of VERIFY_ARCHIVE (R148). -/
def rangeFailure (tag : BitVec 16) (first : BitVec 64) (count : BitVec 32) : Option Nat :=
  firstFailure [tagTest tag, (2, decide (first ≠ 0)), (3, inRange 1 16384 count.toNat)]

/-- The tests of REPLAY (R147). -/
def replayFailure (tag : BitVec 16) (first : BitVec 64) (count : BitVec 32) (ring : Byte) : Option Nat :=
  firstFailure
    [tagTest tag, (2, decide (first ≠ 0)), (3, inRange 1 16384 count.toNat), (4, inRange 0 3 ring.toNat)]

/-- The tests of ABORT: every target tag is accepted (R149). -/
def abortFailure (tag : BitVec 16) : Option Nat := firstFailure [tagTest tag]

/-- The tests of SET_NOTIFY (section 8.3.12). -/
def notifyFailure (tag : BitVec 16) (vector threshold : Byte) (delay : BitVec 16) : Option Nat :=
  firstFailure
    [tagTest tag, (2, inRange 0 5 vector.toNat), (3, inRange 1 255 threshold.toNat), (4, inRange 0 65535 delay.toNat)]

/-! ### The initialisation block (R159) -/

/-- Whether a size is a power of two in a range. -/
def isRingSize (low high size : Nat) : Bool := inRange low high size && decide (size &&& (size - 1) = 0)

/-- The tests of event ring `n`: its base against its own size, then its size (R159). -/
def eventRingTests (b : InitBlock) (n : RingNo) : List (Nat × Bool) :=
  [(5 + 2 * n.val, decide ((b.eventRings.get n).size = 0) || decide ((b.eventRings.get n).base.toNat % 32 = 0)),
   (6 + 2 * n.val, decide ((b.eventRings.get n).size = 0) || isRingSize 16 65536 (b.eventRings.get n).size.toNat)]

/-- The tests of vector `v`: any address and data, threshold 1 to 255, any delay (R159). -/
def vectorTests (b : InitBlock) (v : VectorNo) : List (Nat × Bool) :=
  [(14 + 4 * v.val, true), (15 + 4 * v.val, true),
   (16 + 4 * v.val, inRange 1 255 (b.vectors.get v).threshold.toNat),
   (17 + 4 * v.val, inRange 0 65535 (b.vectors.get v).delay.toNat)]

/-- Whether the system ring byte names an event ring whose size is not 0 (R159). -/
def systemRingTest (b : InitBlock) : Bool :=
  inRange 0 3 b.systemRing.toNat && decide ((b.eventRings.get (Fin.ofNat 4 b.systemRing.toNat)).size ≠ 0)

/-- The field index of the first field of the block that fails validation (R159). -/
def blockFailure (b : InitBlock) : Option Nat :=
  firstFailure
    ([(0, decide (b.version = 1)),
      (1, decide (b.commandBase.toNat % 64 = 0)),
      (2, isRingSize 16 4096 b.commandSize.toNat),
      (3, decide (b.completionBase.toNat % 32 = 0)),
      (4, isRingSize 16 4096 b.completionSize.toNat)] ++
     eventRingTests b 0 ++ eventRingTests b 1 ++ eventRingTests b 2 ++ eventRingTests b 3 ++
     [(13, systemRingTest b)] ++
     vectorTests b 0 ++ vectorTests b 1 ++ vectorTests b 2 ++ vectorTests b 3 ++ vectorTests b 4 ++ vectorTests b 5)

end Sys2Proof.Machine
end

