-- ==== Sys2Proof/Machine/Qualifier.lean ====
section
/-! DEFINITION. The line qualifier, the chatter monitor and the counter bank (Chapters 1 and 2): RAW_CHANGE, DEBOUNCE_EXPIRY,
WINDOW_TIMER_EXPIRY, QUIET_TIMER_EXPIRY, and what CONFIGURE_LINES and SNAPSHOT_COUNTERS do to the lines. -/

namespace Sys2Proof.Machine

/-- Whether the report selection takes a transition to the level `target`: a rising one goes to 1 (R11). -/
def Report.selects (r : Report) (target : Level) : Bool :=
  match r with
  | .none => false
  | .rising => target
  | .falling => !target
  | .both => true

/-- Whether chatter detection is in force for a line (section 2.1). -/
def LineConfig.chatterInForce (cfg : LineConfig) : Bool := decide (cfg.role = .event) && decide (cfg.chatterLimit ≠ 0)

/-- What the chatter monitor returns to the qualifier (R9, step 3). -/
inductive ChatterOutcome where
  | reportEdge
  /-- Replaced by CHATTER_ON; `count` is the count that reached the limit. -/
  | replaced (count : Nat)
  | noRecord
  deriving DecidableEq, Repr

/-- The chatter monitor takes a confirmed transition of a line: the line's new chatter state and episode count, and the outcome
(R21 to R25). -/
def chatterMonitor (now : Nat) (l : Line) : Line × ChatterOutcome :=
  if l.config.chatterInForce then
    match l.chatter with
    | .quiet => ({ l with chatter := .counting 1 (now + l.config.chatterWindow * Config.perMilli) }, .reportEdge)
    | .counting count window =>
      if count + 1 < l.config.chatterLimit then ({ l with chatter := .counting (count + 1) window }, .reportEdge)
      else
        ({ l with
           chatter := .chattering (now + l.config.quietTime * Config.perMilli)
           episodeCount := satInc l.episodeCount }, .replaced (count + 1))
    | .chattering _ => ({ l with chatter := .chattering (now + l.config.quietTime * Config.perMilli) }, .noRecord)
  else (l, .reportEdge)

/-- A confirmed transition of an EVENT-role line at the chatter monitor, with the record it makes (R9, R12, R24). -/
def Capture.confirmEvent (i : LineNo) (target : Level) (capture : Nat) (stamp : Stamp) (c : Capture) : Capture :=
  match chatterMonitor c.elapsed (c.line i) with
  | (l, .reportEdge) =>
    if l.config.report.selects target then (c.setLine i l).createLineRecord i .edge target stamp capture 0
    else c.setLine i l
  | (l, .replaced count) =>
    (c.setLine i l).createLineRecord i .chatterOn target stamp capture (BitVec.ofNat 64 count)
  | (l, .noRecord) => c.setLine i l

/-- A confirmed transition of a COUNT-role line at the counter bank (R33, R34). -/
def Capture.confirmCount (i : LineNo) (target : Level) (c : Capture) : Capture :=
  let l := c.line i
  if l.config.report.selects target then
    if l.counter = 0xFFFFFFFF#32 then
      (c.setLine i { l with counter := 0 }).createLineRecord i .countWrap target c.stamp c.elapsed 0
    else c.setLine i { l with counter := l.counter + 1#32 }
  else c

/-- Confirmation of a transition of line `i` to `target` (R9). -/
def Capture.confirm (i : LineNo) (target : Level) (capture : Nat) (stamp : Stamp) (c : Capture) : Capture :=
  let l := c.line i
  let c1 := c.setLine i { l with qualifier := .stable target, transitionCount := satInc l.transitionCount }
  match l.config.role with
  | .off => c1
  | .event => c1.confirmEvent i target capture stamp
  | .count => c1.confirmCount i target

/-- A change of line `i` away from its stable level, to the logical level `target`, taken at this instant: a candidate, or with
debounce 0 a confirmation at once (R5, R6; step 6 of R18). -/
def Capture.qualify (i : LineNo) (target : Level) (c : Capture) : Capture :=
  let l := c.line i
  if l.config.debounce = 0 then c.confirm i target c.elapsed c.stamp
  else c.setLine i { l with qualifier := .candidate l.qualifier.level target c.elapsed c.stamp }

/-- The line qualifier takes a raw change of line `i` to `raw` (R2, R4 to R7). A sample equal to the one before it is no change
and has no effect. -/
def Capture.rawChange (i : LineNo) (raw : Level) (c : Capture) : Capture :=
  let l := c.line i
  if l.raw = raw then c
  else
    match l.qualifier with
    | .off => c.setLine i { l with raw := raw }
    | .stable _ => (c.setLine i { l with raw := raw }).qualify i (l.config.logical raw)
    | .candidate level _ _ _ =>
      c.setLine i { l with raw := raw, qualifier := .stable level, glitchCount := satInc l.glitchCount }

/-- Whether the debounce expiry of line `i` has arrived: it has a candidate, and the elapsed count has reached the candidate's
capture instant plus the debounce (R5). -/
def Capture.debounceDue (c : Capture) (i : LineNo) : Bool :=
  match (c.line i).qualifier with
  | .candidate _ _ capture _ => decide (capture + (c.line i).config.debounce ≤ c.elapsed)
  | .off | .stable _ => false

/-- The debounce expiry of line `i` (R8). Without a candidate, or with one whose expiry is later, it has no effect (R8, R20). -/
def Capture.debounceExpiry (i : LineNo) (c : Capture) : Capture :=
  if c.debounceDue i then
    match (c.line i).qualifier with
    | .candidate _ target capture stamp => c.confirm i target capture stamp
    | .off | .stable _ => c
  else c

/-- Whether the chatter window of line `i` has run out (R22). -/
def Capture.windowDue (c : Capture) (i : LineNo) : Bool :=
  match (c.line i).chatter with
  | .counting _ expiry => decide (expiry ≤ c.elapsed)
  | .quiet | .chattering _ => false

/-- The window timer expiry of line `i` (R26); without effect where no window timer runs or its expiry is later (R28). -/
def Capture.windowExpiry (i : LineNo) (c : Capture) : Capture :=
  if c.windowDue i then c.setLine i { c.line i with chatter := .quiet } else c

/-- Whether the quiet time of line `i` has run out (R23, R25). -/
def Capture.quietDue (c : Capture) (i : LineNo) : Bool :=
  match (c.line i).chatter with
  | .chattering expiry => decide (expiry ≤ c.elapsed)
  | .quiet | .counting _ _ => false

/-- The quiet timer expiry of line `i` (R27); without effect where no quiet timer runs or its expiry is later (R29). -/
def Capture.quietExpiry (i : LineNo) (c : Capture) : Capture :=
  if c.quietDue i then (c.setLine i { c.line i with chatter := .quiet }).createChatterOff i else c

/-! ### Reconfiguration (R15 to R19) -/

/-- The CHATTER_OFF that a reconfiguration owes line `i`, under the old configuration (R17, R18). -/
def Capture.closeEpisode (i : LineNo) (c : Capture) : Capture :=
  if (c.line i).config.role = .event ∧ (c.line i).chatter.isChattering = true then c.createChatterOff i else c

/-- A masked line that comes from OFF (R16). -/
def Capture.configureFromOff (i : LineNo) (cfg : LineConfig) (c : Capture) : Capture :=
  let l := c.line i
  if cfg.role = .off then c.setLine i { l with config := cfg }
  else
    c.setLine i { l with config := cfg, qualifier := .stable (cfg.logical l.raw), chatter := .quiet, counter := 0 }

/-- A masked line that goes to OFF from another role (R17). -/
def Capture.configureToOff (i : LineNo) (cfg : LineConfig) (c : Capture) : Capture :=
  let c1 := c.closeEpisode i
  c1.setLine i { c1.line i with config := cfg, qualifier := .off, chatter := .quiet, counter := 0 }

/-- A masked line that remains in EVENT or COUNT role (R18). -/
def Capture.configureKept (i : LineNo) (cfg : LineConfig) (c : Capture) : Capture :=
  let c1 := c.closeEpisode i
  let l := c1.line i
  let level := l.qualifier.level != (l.config.invert != cfg.invert)
  let c2 := c1.setLine i { l with
    config := cfg
    qualifier := .stable level
    chatter := .quiet
    counter := if l.config.role = cfg.role then l.counter else 0 }
  if cfg.logical l.raw = level then c2 else c2.qualify i (cfg.logical l.raw)

/-- One masked line of a CONFIGURE_LINES (R15). -/
def Capture.configureLine (cfg : LineConfig) (c : Capture) (i : LineNo) : Capture :=
  if (c.line i).config.role = .off then c.configureFromOff i cfg
  else if cfg.role = .off then c.configureToOff i cfg
  else c.configureKept i cfg

/-- The lines of a line mask in ascending order. -/
def maskedLines (mask : BitVec 64) : List LineNo := (List.finRange 48).filter fun i => mask.getLsbD i.val

/-- An accepted CONFIGURE_LINES at the capture side: the masked lines in ascending order, then the horizon (R15, R19). -/
def Capture.configureLines (mask : BitVec 64) (cfg : LineConfig) (c : Capture) : Capture :=
  ((maskedLines mask).foldl (Capture.configureLine cfg) c).recomputeHorizon

/-! ### Counter snapshots (R35, R36) -/

/-- Whether a snapshot with the group mask selects line `i` (R35). -/
def Capture.snapshotSelects (c : Capture) (groupMask : Byte) (i : LineNo) : Bool :=
  decide ((c.line i).config.role = .count) && groupMask.getLsbD (c.line i).config.group.val && (c.groupOf i).enabled

/-- A snapshot in progress: the capture side, and how many of its records were staged and how many shed. -/
structure Snapshot where
  capture : Capture
  staged : Nat
  shed : Nat
  deriving DecidableEq, Repr

/-- One selected line of a snapshot: its COUNT record, and with the clear flag its counter set to 0 (R35, R36). -/
def Snapshot.takeLine (clear : Bool) (p : Snapshot) (i : LineNo) : Snapshot :=
  let c := p.capture
  let l := c.line i
  let e := c.lineEntry i .count l.qualifier.level c.stamp c.elapsed (l.counter.setWidth 64)
  let (c1, held) := (if clear then c.setLine i { l with counter := 0 } else c).stage e
  { capture := c1
    staged := if held then p.staged + 1 else p.staged
    shed := if held then p.shed else p.shed + 1 }

/-- A SNAPSHOT_COUNTERS at the counter bank: the selected lines in ascending order (R35). -/
def Capture.snapshotCounters (groupMask : Byte) (clear : Bool) (c : Capture) : Snapshot :=
  ((List.finRange 48).filter (c.snapshotSelects groupMask)).foldl (Snapshot.takeLine clear)
    { capture := c, staged := 0, shed := 0 }

/-! ### The meanings -/

/-- RAW_CHANGE (R2, R4 to R7). -/
def execRawChange (line : LineNo) (level : Level) (s : State) : Host.Outcome State Fault Refusal :=
  .next (s.onCapture (Capture.rawChange line level))

/-- DEBOUNCE_EXPIRY (R8). -/
def execDebounceExpiry (line : LineNo) (s : State) : Host.Outcome State Fault Refusal :=
  .next (s.onCapture (Capture.debounceExpiry line))

/-- WINDOW_TIMER_EXPIRY (R26). -/
def execWindowTimerExpiry (line : LineNo) (s : State) : Host.Outcome State Fault Refusal :=
  .next (s.onCapture (Capture.windowExpiry line))

/-- QUIET_TIMER_EXPIRY (R27). -/
def execQuietTimerExpiry (line : LineNo) (s : State) : Host.Outcome State Fault Refusal :=
  .next (s.onCapture (Capture.quietExpiry line))

end Sys2Proof.Machine
end

