-- ==== Sys2Proof/Machine/Timebase.lean ====
section
/-! DEFINITION. The timebase (Chapter 3): SYNC_PULSE, HOLD_EXPIRY, LOSS_EXPIRY, HOLDOVER_EXPIRY, and what CONFIGURE_TIMEBASE and
SET_TIME do to the capture side. -/

namespace Sys2Proof.Machine

/-- The state with the timebase changed. -/
def Capture.onTimebase (f : Timebase → Timebase) (c : Capture) : Capture := { c with timebase := f c.timebase }

/-! ### Sync pulses (R44 to R47) -/

/-- The sub-second part of the time value (R45). -/
def Timebase.subSecond (t : Timebase) : Nat := t.timeValue % Config.perSecond

/-- Whether a pulse finds the time behind: a sub-second part of 500 000 or more (R45). -/
def Timebase.behind (t : Timebase) : Bool := decide (500000 ≤ t.subSecond)

/-- The offset of the time value from the pulse mark (R45). -/
def Timebase.offset (t : Timebase) : Nat := if t.behind then Config.perSecond - t.subSecond else t.subSecond

/-- A pulse is accepted when its offset is no greater than the tolerance (R45). -/
def Timebase.accepts (t : Timebase) : Bool := decide (t.offset ≤ t.tolerance)

/-- The correction of an accepted pulse at `now`: nothing on the second, a hold when ahead, a forward step when behind
(R45, R46). -/
def Timebase.correct (now : Nat) (t : Timebase) : Timebase :=
  if t.subSecond = 0 then t
  else if t.behind then { t with timeValue := t.timeValue + t.offset }
  else { t with holdExpiry := some (now + t.offset) }

/-- The quality after an accepted pulse that leaves the accepted run at `run` (R45, step 4). -/
def Quality.afterAccepted (q : Quality) (run : BitVec 32) : Quality :=
  match q with
  | .unset => .unset
  | .free => if Config.lockRun ≤ run.toNat then .locked else .free
  | .locked => .locked
  | .holdover => .locked

/-- An accepted pulse at `now` (R45, steps 1 to 4). -/
def Timebase.acceptPulse (now : Nat) (t : Timebase) : Timebase :=
  let t1 := t.correct now
  { t1 with
    acceptedRun := satInc t.acceptedRun
    rejectedRun := 0
    lastAccepted := some now
    quality := t.quality.afterAccepted (satInc t.acceptedRun)
    holdoverEntry := if t.quality = .holdover then none else t.holdoverEntry }

/-- A rejected pulse at `now` (R47). -/
def Timebase.rejectPulse (now : Nat) (t : Timebase) : Timebase :=
  let lost : Bool := decide (t.quality = .locked) && decide (Config.unlockRun ≤ (satInc t.rejectedRun).toNat)
  { t with
    rejectedRun := satInc t.rejectedRun
    acceptedRun := 0
    quality := if lost then .holdover else t.quality
    holdoverEntry := if lost then some now else t.holdoverEntry }

/-- A sync pulse at `now`: a running hold ends first, and the held value is evaluated (R45). -/
def Timebase.pulse (now : Nat) (t : Timebase) : Timebase :=
  let t0 := { t with holdExpiry := none }
  if t0.accepts then t0.acceptPulse now else t0.rejectPulse now

/-- Whether a change of SYNC to `level` is the active edge (R44). -/
def edgeIsTo (e : Edge) (level : Level) : Bool :=
  match e with
  | .rising => level
  | .falling => !level

/-- SYNC takes a new sample: a change to the active edge is evaluated when sync is enabled and the quality is not UNSET; every
other change is ignored, and a sample equal to the one before it is no edge (R44). -/
def Capture.syncSample (level : Level) (c : Capture) : Capture :=
  if c.syncLevel = level then c
  else
    { c with
      syncLevel := level
      timebase :=
        if edgeIsTo c.timebase.activeEdge level = true ∧ c.timebase.syncEnable = true ∧ c.timebase.quality ≠ .unset then
          c.timebase.pulse c.elapsed
        else c.timebase }

/-! ### Expiries (R46, R48, R49) -/

/-- Whether a running hold has run out (R46). -/
def Timebase.holdDue (now : Nat) (t : Timebase) : Bool :=
  match t.holdExpiry with
  | none => false
  | some expiry => decide (expiry ≤ now)

/-- The hold expiry (R46). -/
def Timebase.endHold (now : Nat) (t : Timebase) : Timebase := if t.holdDue now then { t with holdExpiry := none } else t

/-- Whether the loss timer has run out: it runs in LOCKED from the last accepted pulse (R48). -/
def Timebase.lossDue (now : Nat) (t : Timebase) : Bool :=
  match t.quality, t.lastAccepted with
  | .locked, some last => decide (last + Config.lossTime ≤ now)
  | _, _ => false

/-- The loss expiry (R48). -/
def Timebase.lose (now : Nat) (t : Timebase) : Timebase :=
  if t.lossDue now then { t with quality := .holdover, holdoverEntry := some now, acceptedRun := 0 } else t

/-- Whether the holdover timer has run out: it runs in HOLDOVER from the holdover entry with the limit now configured (R49). -/
def Timebase.holdoverDue (now : Nat) (t : Timebase) : Bool :=
  match t.quality, t.holdoverEntry with
  | .holdover, some entry => decide (entry + t.holdoverLimit * Config.perSecond ≤ now)
  | _, _ => false

/-- The holdover expiry (R49). -/
def Timebase.endHoldover (now : Nat) (t : Timebase) : Timebase :=
  if t.holdoverDue now then { t with quality := .free, holdoverEntry := none, acceptedRun := 0, rejectedRun := 0 } else t

/-! ### CONFIGURE_TIMEBASE (R51) -/

/-- A quality when sync is disabled: LOCKED and HOLDOVER become FREE (R51). -/
def Quality.undisciplined : Quality → Quality
  | .unset => .unset
  | .free => .free
  | .locked => .free
  | .holdover => .free

/-- An accepted CONFIGURE_TIMEBASE at `now` (R51). -/
def Timebase.configure (enable : Bool) (edge : Edge) (tolerance limit now : Nat) (t : Timebase) : Timebase :=
  let t1 := { t with syncEnable := enable, activeEdge := edge, tolerance := tolerance, holdoverLimit := limit }
  if t.syncEnable = true ∧ enable = false then
    { t1 with
      acceptedRun := 0
      rejectedRun := 0
      lastAccepted := none
      quality := t.quality.undisciplined
      holdoverEntry := none }
  else if t.syncEnable = true ∧ enable = true then t1.endHoldover now
  else t1

/-! ### SET_TIME (R52 to R55) -/

/-- The timebase after an accepted SET_TIME (R53, steps 2 to 4). -/
def Timebase.set (value : Nat) (t : Timebase) : Timebase :=
  { t with
    generation := t.generation + 1#32
    timeValue := value
    holdExpiry := none
    quality := .free
    acceptedRun := 0
    rejectedRun := 0
    lastAccepted := none
    holdoverEntry := none }

/-- A line re-stamped: a candidate takes the capture instant and stamp given (R54). -/
def Line.restamp (now : Nat) (stamp : Stamp) (l : Line) : Line :=
  match l.qualifier with
  | .candidate level target _ _ => { l with qualifier := .candidate level target now stamp }
  | .off | .stable _ => l

/-- The TIME_STEP record (R55). -/
def timeStepEntry (stamp : Stamp) (now previous : Nat) (systemRing : RingNo) : Entry where
  kind := .timeStep
  line := none
  level := false
  group := 0
  stamp := stamp
  capture := now
  payload := word64 previous
  cls := none
  ring := systemRing

/-- An accepted SET_TIME at the capture side (R53). -/
def Capture.setTime (value : Nat) (systemRing : RingNo) (c : Capture) : Capture :=
  let c1 := c.onTimebase (Timebase.set value)
  let c2 := { c1 with lines := Vector.ofFn fun i => (c1.line i).restamp c1.elapsed c1.stamp }
  (c2.stage (timeStepEntry c2.stamp c2.elapsed c.timebase.timeValue systemRing)).1

/-! ### The meanings -/

/-- SYNC_PULSE (R44, R45). -/
def execSyncPulse (level : Level) (s : State) : Host.Outcome State Fault Refusal :=
  .next (s.onCapture (Capture.syncSample level))

/-- HOLD_EXPIRY (R46); without effect where no hold runs or its expiry is later. -/
def execHoldExpiry (s : State) : Host.Outcome State Fault Refusal :=
  .next (s.onCapture (Capture.onTimebase (Timebase.endHold s.capture.elapsed)))

/-- LOSS_EXPIRY (R48); without effect outside LOCKED or where its expiry is later (R50). -/
def execLossExpiry (s : State) : Host.Outcome State Fault Refusal :=
  .next (s.onCapture (Capture.onTimebase (Timebase.lose s.capture.elapsed)))

/-- HOLDOVER_EXPIRY (R49); without effect outside HOLDOVER or where its expiry is later (R50). -/
def execHoldoverExpiry (s : State) : Host.Outcome State Fault Refusal :=
  .next (s.onCapture (Capture.onTimebase (Timebase.endHoldover s.capture.elapsed)))

end Sys2Proof.Machine
end

