-- ==== Sys2Proof/Machine/Commands.lean ====
section
/-! DEFINITION. The command engine (Chapters 7 and 8): COMMAND_TAKE, BAD_KIND and the twelve host commands, each taken at the
instant its read completes: validation, effect and completion. -/

namespace Sys2Proof.Machine

/-! ### Intake (R121, R122) -/

/-- Whether the command engine is idle, neither reading a command nor executing one (R121). -/
def CommandEngine.isIdle : CommandEngine → Bool
  | .idle => true
  | .reading _ _ _ | .executing _ _ => false

/-- The three conditions of a take within a session (R121). -/
def Attached.canTakeCommand (h : Attached) : Bool :=
  h.command.isIdle && decide (0 < h.commandRing.waiting) &&
    decide (h.archiveEngine.promised < h.completionRing.freeSlots)

/-- The take of the next command: its read is in flight from this instant, under the next number (R122). -/
def State.takeCommand (s : State) : State :=
  match s.host.session with
  | .attached h =>
    if h.canTakeCommand then
      { s.withHost { h with
          command := .reading (slotAddress h.commandRing.base 64 h.commandRing.consumer) s.capture.elapsed s.reads }
        with reads := s.reads + 1 }
    else s
  | .detached | .attaching _ _ _ | .faulted _ => s

/-- COMMAND_TAKE (R121); without effect where the three conditions do not hold together. -/
def execCommandTake (s : State) : Host.Outcome State Fault Refusal :=
  .next s.takeCommand

/-- The session's host side after the successful completion of the command read of a number: the consumer index has advanced and the
engine holds the command (R122). None where that read is not in flight, being abandoned (R154), or where its 50 ms have passed
(R127). That a read may complete at the elapsed count at which it was issued is the model's (DESIGN CHOICE, log entry 23): R122 says
that it takes time, and no rule gives a least time. -/
def State.commandRead (read : Nat) (s : State) : Option Attached :=
  match s.host.session with
  | .attached h =>
    match h.command with
    | .reading _ dueAt number =>
      if read = number ∧ s.capture.elapsed ≤ dueAt + Config.dmaTimeout then
        some { h with commandRing := h.commandRing.advance, command := .idle }
      else none
    | .idle | .executing _ _ => none
  | .detached | .attaching _ _ _ | .faulted _ => none

/-- A completion of the command engine (R133). -/
def State.complete (kind : Byte) (tag : BitVec 16) (status : Status) (result : BitVec 192) (s : State) : State :=
  s.handCompletion { kind := kind, tag := tag, status := status, fieldIndex := 0, result := result }

/-- A refusal with BAD_FIELD and the index of the field that failed (R132). -/
def State.completeBadField (kind : Byte) (tag : BitVec 16) (index : Nat) (s : State) : State :=
  s.handCompletion { kind := kind, tag := tag, status := .badField, fieldIndex := index, result := 0 }

/-- A host command at the instant its read completes: refused with BAD_FIELD where validation fails, otherwise carried out by
`body`, which hands over the completion (R122, R132, R134). The completion of a read that is not in flight is discarded (R129, R154). -/
def State.runCommand (read : Nat) (kind : Byte) (tag : BitVec 16) (failure : Option Nat) (body : State → State) (s : State) : State :=
  match s.commandRead read with
  | none => s
  | some h =>
    match failure with
    | some index => (s.withHost h).completeBadField kind tag index
    | none => body (s.withHost h)

/-- Whether event ring `n` is present in the session (R136, R150). -/
def State.ringPresent (s : State) (n : RingNo) : Bool := (s.attachedRing n).isSome

/-! ### BAD_KIND (R132) -/

/-- BAD_KIND (R132): the command is refused; its completion carries the kind byte as it was read. A kind code that is defined
is no BAD_KIND, and the event has no effect. -/
def execBadKind (kind : Byte) (head : CommandHead) (s : State) : Host.Outcome State Fault Refusal :=
  .next (if definedKind kind then s else s.runCommand head.read kind head.tag none (State.complete kind head.tag .badKind 0))

/-! ### CONFIGURE_LINES and CONFIGURE_GROUP -/

/-- An accepted CONFIGURE_LINES with its completion (R135). -/
def State.configureLines (tag : BitVec 16) (p : LineParams) (s : State) : State :=
  let s1 := s.onCapture (Capture.configureLines p.lineMask (lineConfigOf p))
  s1.complete 0x01 tag .success (horizonResult s1.capture.horizon)

/-- CONFIGURE_LINES (R15, R135). -/
def execConfigureLines (head : CommandHead) (params : LineParams) (s : State) : Host.Outcome State Fault Refusal :=
  .next (s.runCommand head.read 0x01 head.tag (linesFailure head.tag params) (State.configureLines head.tag params))

/-- One entry of the group table replaced (R81). -/
def Capture.configureGroup (group : GroupNo) (g : Group) (c : Capture) : Capture :=
  { c with groups := c.groups.set group.val g }

/-- An accepted CONFIGURE_GROUP: tested against the session, then applied (R136). -/
def State.configureGroup (tag : BitVec 16) (group : GroupNo) (g : Group) (s : State) : State :=
  if s.ringPresent g.ring then (s.onCapture (Capture.configureGroup group g)).complete 0x02 tag .success 0
  else s.complete 0x02 tag .ringAbsent 0

/-- CONFIGURE_GROUP (R81, R136). -/
def execConfigureGroup (head : CommandHead) (group cls ring enabled : Byte) (s : State) : Host.Outcome State Fault Refusal :=
  .next (s.runCommand head.read 0x02 head.tag (groupFailure head.tag group cls ring enabled)
    (State.configureGroup head.tag (Fin.ofNat 8 group.toNat)
      { cls := Fin.ofNat 4 cls.toNat, ring := Fin.ofNat 4 ring.toNat, enabled := enabled.getLsbD 0 }))

/-! ### CONFIGURE_TIMEBASE, SET_TIME, GET_TIME -/

/-- An accepted CONFIGURE_TIMEBASE with its completion (R137). -/
def State.configureTimebase (tag : BitVec 16) (enable : Bool) (edge : Edge) (tolerance limit : Nat) (s : State) : State :=
  let s1 := s.onCapture (Capture.onTimebase (Timebase.configure enable edge tolerance limit s.capture.elapsed))
  s1.complete 0x03 tag .success (qualityResult s1.capture.timebase.quality)

/-- CONFIGURE_TIMEBASE (R51, R137). -/
def execConfigureTimebase (head : CommandHead) (enable edge : Byte) (tolerance limit : BitVec 32) (s : State) :
    Host.Outcome State Fault Refusal :=
  .next (s.runCommand head.read 0x03 head.tag (timebaseFailure head.tag enable edge tolerance limit)
    (State.configureTimebase head.tag (enable.getLsbD 0) ((edgeOfCode edge).getD .rising) tolerance.toNat limit.toNat))

/-- A SET_TIME that has passed validation: refused by R52, or carried out (R53, R138). -/
def State.setTime (tag : BitVec 16) (value : Nat) (s : State) : State :=
  match s.host.session with
  | .attached h =>
    if s.capture.timebase.generation = 0xFFFFFFFF#32 then s.complete 0x04 tag .generationExhausted 0
    else if Config.stagingEntries ≤ s.capture.staging.length then s.complete 0x04 tag .stagingFull 0
    else
      let s1 := s.onCapture (Capture.setTime value h.systemRing)
      s1.complete 0x04 tag .success (generationResult s1.capture.timebase.generation)
  | .detached | .attaching _ _ _ | .faulted _ => s

/-- SET_TIME (R52 to R55, R138). -/
def execSetTime (head : CommandHead) (value : BitVec 64) (s : State) : Host.Outcome State Fault Refusal :=
  .next (s.runCommand head.read 0x04 head.tag (timeFailure head.tag value) (State.setTime head.tag value.toNat))

/-- What remains of a running hold, 0 when none runs (R46, R139). -/
def Capture.holdRemaining (c : Capture) : Nat :=
  match c.timebase.holdExpiry with
  | none => 0
  | some expiry => expiry - c.elapsed

/-- GET_TIME (R139): it reads the timebase and changes nothing. -/
def execGetTime (head : CommandHead) (s : State) : Host.Outcome State Fault Refusal :=
  .next (s.runCommand head.read 0x05 head.tag (getTimeFailure head.tag)
    (State.complete 0x05 head.tag .success (timeResult s.capture.timebase s.capture.holdRemaining)))

/-! ### SNAPSHOT_LEVELS, SNAPSHOT_COUNTERS, READ_STATISTICS -/

/-- A command whose result buffer's write becomes due and which executes until that write is issued (R142, R146). -/
def State.writeBuffer (kind : Byte) (tag : BitVec 16) (address : BitVec 64) (data : List Byte) (s : State) : State :=
  s.onHost fun h => { h with command := .executing kind tag }.makeDue .buffer address data s.capture.elapsed

/-- SNAPSHOT_LEVELS (R141, R142): the state captured is that of this instant. -/
def execSnapshotLevels (head : CommandHead) (address : BitVec 64) (s : State) : Host.Outcome State Fault Refusal :=
  .next (s.runCommand head.read 0x06 head.tag (levelsFailure head.tag address)
    (State.writeBuffer 0x06 head.tag address (levelsBuffer s.capture)))

/-- An accepted SNAPSHOT_COUNTERS with its completion (R35, R36, R143). -/
def State.snapshotCounters (tag : BitVec 16) (groupMask : Byte) (clear : Bool) (s : State) : State :=
  let p := s.capture.snapshotCounters groupMask clear
  (s.onCapture fun _ => p.capture).complete 0x07 tag .success (stagedResult p.staged p.shed)

/-- SNAPSHOT_COUNTERS (R35 to R37, R143). -/
def execSnapshotCounters (head : CommandHead) (groupMask clear : Byte) (s : State) : Host.Outcome State Fault Refusal :=
  .next (s.runCommand head.read 0x07 head.tag (countersFailure head.tag groupMask clear)
    (State.snapshotCounters head.tag groupMask (clear.getLsbD 0)))

/-- The four per-line counts and the high-water mark set to 0 (R145). -/
def Capture.clearStatistics (c : Capture) : Capture :=
  { c with
    lines := Vector.ofFn fun i =>
      { c.line i with glitchCount := 0, transitionCount := 0, shedCount := 0, episodeCount := 0 }
    highWater := 0 }

/-- An accepted READ_STATISTICS: the figures are captured, then cleared where the flag is set (R144, R145). -/
def State.readStatistics (tag : BitVec 16) (address : BitVec 64) (clear : Bool) (s : State) : State :=
  (if clear then s.onCapture Capture.clearStatistics else s).writeBuffer 0x08 tag address (statisticsBuffer s.capture)

/-- READ_STATISTICS (R144 to R146). -/
def execReadStatistics (head : CommandHead) (address : BitVec 64) (clear : Byte) (s : State) :
    Host.Outcome State Fault Refusal :=
  .next (s.runCommand head.read 0x08 head.tag (statisticsFailure head.tag address clear)
    (State.readStatistics head.tag address (clear.getLsbD 0)))

/-! ### REPLAY, VERIFY_ARCHIVE, ABORT -/

/-- REPLAY (R147): dispatched to the archive engine and taken at once (R100). -/
def execReplay (head : CommandHead) (first : BitVec 64) (count : BitVec 32) (ring : Byte) (s : State) :
    Host.Outcome State Fault Refusal :=
  .next (s.runCommand head.read replayKind head.tag (replayFailure head.tag first count ring)
    (State.onHost (Attached.takeReplay s.capture.archive head.tag first.toNat count.toNat (Fin.ofNat 4 ring.toNat)
      s.capture.elapsed)))

/-- VERIFY_ARCHIVE (R148): dispatched to the archive engine and taken at once (R100). -/
def execVerifyArchive (head : CommandHead) (first : BitVec 64) (count : BitVec 32) (s : State) :
    Host.Outcome State Fault Refusal :=
  .next (s.runCommand head.read verifyKind head.tag (rangeFailure head.tag first count)
    (State.onHost (Attached.takeVerify s.capture.archive head.tag first.toNat count.toNat s.capture.elapsed)))

/-- An accepted ABORT in a session (R110, R149): the running archive command of the target tag completes with ABORTED and the
ABORT with SUCCESS after it, or the ABORT completes with NOT_FOUND. -/
def Attached.abort (tag target : BitVec 16) (now : Nat) (h : Attached) : Attached :=
  match h.archiveEngine.abortedCompletion target with
  | some c => (h.endArchiveCommand c now).handCompletion (.plain 0x0B tag .success) now
  | none => h.handCompletion (.plain 0x0B tag .notFound) now

/-- ABORT (R110, R149). -/
def execAbort (head : CommandHead) (target : BitVec 16) (s : State) : Host.Outcome State Fault Refusal :=
  .next (s.runCommand head.read 0x0B head.tag (abortFailure head.tag) (State.onHost (Attached.abort head.tag target s.capture.elapsed)))

/-! ### SET_NOTIFY -/

/-- Whether a vector may be set in the session: vectors 1 to 4 only where their event ring is present (R150). -/
def Attached.vectorPresent (h : Attached) (v : VectorNo) : Bool :=
  if v = 0 ∨ v = 5 then true else (h.eventRing (Fin.ofNat 4 (v.val - 1))).isSome

/-- A SET_NOTIFY that has passed validation (R150, R151). -/
def Attached.setNotify (tag : BitVec 16) (v : VectorNo) (threshold delay now : Nat) (h : Attached) : Attached :=
  if h.vectorPresent v then
    (h.setVector v { h.vector v with threshold := threshold, delay := delay }).handCompletion
      (.plain 0x0C tag .success) now
  else h.handCompletion (.plain 0x0C tag .ringAbsent) now

/-- SET_NOTIFY (R150, R151). -/
def execSetNotify (head : CommandHead) (vector threshold : Byte) (delay : BitVec 16) (s : State) :
    Host.Outcome State Fault Refusal :=
  .next (s.runCommand head.read 0x0C head.tag (notifyFailure head.tag vector threshold delay)
    (State.onHost (Attached.setNotify head.tag (Fin.ofNat 6 vector.toNat) threshold.toNat delay.toNat s.capture.elapsed)))

end Sys2Proof.Machine
end

