-- ==== Sys2Proof/Machine/Link.lean ====
section
/-! DEFINITION. Memory writes and DMA outcomes on the link (Chapter 7): MEMORY_WRITE_ISSUE, READ_BUS_ERROR, WRITE_BUS_ERROR and
FAULT_NOTIFY_FAILED. -/

namespace Sys2Proof.Machine

/-- A due write as the link carries it. -/
def DueWrite.onLink (w : DueWrite) : LinkWrite where
  address := w.address
  data := w.data

/-- Whether a write can still be issued: its 50 ms have not passed (R128). -/
def DueWrite.inTime (w : DueWrite) (now : Nat) : Bool := decide (now ≤ w.dueAt + Config.dmaTimeout)

/-- Whether a DMA operation due since `dueAt` has run out of its 50 ms (R127, R128). -/
def timedOut (dueAt now : Nat) : Bool := decide (dueAt + Config.dmaTimeout ≤ now)

/-- What follows the issue of a due write within the session: a posting for a ring's record (R169), the completion of the
command in execution for its result buffer (R142, R146), nothing for a message. -/
def Attached.afterIssue (source : WriteSource) (now : Nat) (h : Attached) : Attached :=
  match source with
  | .completion => h.post 0 now
  | .record ring => h.post (ringVector ring) now
  | .buffer =>
    match h.command with
    | .executing kind tag =>
      { h with command := .idle }.handCompletion
        { kind := kind, tag := tag, status := .success, fieldIndex := 0, result := 0 } now
    | .idle | .reading _ _ _ => h
  | .message _ => h

/-- The first due write issued onto the link (R126). Without effect where none is due or its 50 ms have passed. -/
def State.issueWrite (s : State) : State :=
  match s.host.session with
  | .attached h =>
    match h.due with
    | w :: rest =>
      if w.inTime s.capture.elapsed then
        { s.withHost ({ h with due := rest }.afterIssue w.source s.capture.elapsed) with link := w.onLink :: s.link }
      else s
    | [] => s
  | .faulted (some w) =>
    if w.inTime s.capture.elapsed then
      { s with host := { s.host with session := .faulted none }, link := w.onLink :: s.link }
    else s
  | .detached | .attaching _ _ _ | .faulted none => s

/-- MEMORY_WRITE_ISSUE (R126, R169, R142, R163). -/
def execMemoryWriteIssue (s : State) : Host.Outcome State Fault Refusal := .next s.issueWrite

/-- Whether the DMA read of a number, due since `dueAt`, ends in a bus error of the given cause at `now` (R127): a bad completion that
answers it within the 50 ms, or their end. -/
def readFails (cause : ReadFailure) (dueAt number now : Nat) : Bool :=
  match cause with
  | .badCompletion read => decide (read = number) && decide (now ≤ dueAt + Config.dmaTimeout)
  | .timeout => timedOut dueAt now

/-- READ_BUS_ERROR (R127): a command read in flight ends in a bus error, and the session faults. Where that
read is not in flight the outcome is discarded (R129, R154). -/
def execReadBusError (cause : ReadFailure) (s : State) : Host.Outcome State Fault Refusal :=
  .next (match s.host.session with
    | .attached h =>
      match h.command with
      | .reading _ dueAt number => if readFails cause dueAt number s.capture.elapsed then s.raiseFault .readBusError else s
      | .idle | .executing _ _ => s
    | .detached | .attaching _ _ _ | .faulted _ => s)

/-- WRITE_BUS_ERROR (R128): the first due write of the session has not been issued within 50 ms, and the session faults. -/
def execWriteBusError (s : State) : Host.Outcome State Fault Refusal :=
  .next (match s.host.session with
    | .attached h =>
      match h.due with
      | w :: _ => if timedOut w.dueAt s.capture.elapsed then s.raiseFault .writeBusError else s
      | [] => s
    | .detached | .attaching _ _ _ | .faulted _ => s)

/-- FAULT_NOTIFY_FAILED (R163): the fault message has not been issued within 50 ms; it is abandoned and the flag is set. -/
def execFaultNotifyFailed (s : State) : Host.Outcome State Fault Refusal :=
  .next (match s.host.session with
    | .faulted (some w) =>
      if timedOut w.dueAt s.capture.elapsed then
        { s with host := { s.host with faultNotifyFailed := true, session := .faulted none } }
      else s
    | .detached | .attaching _ _ _ | .attached _ | .faulted none => s)

end Sys2Proof.Machine
end

