-- ==== Sys2Proof/Machine/SessionControl.lean ====
section
/-! DEFINITION. The session controller (Chapter 9): ATTACH, BLOCK_READ_COMPLETE, INIT_BUS_ERROR, DETACH, RESET, LINK_RESET and
POWER_ON_RESET. -/

namespace Sys2Proof.Machine

/-- The address of the initialisation block (R156). -/
def HostSide.initAddress (h : HostSide) : BitVec 64 := h.initAddrHi ++ h.initAddrLo

/-- An ATTACH (R158): in DETACHED the fault state is cleared and the block read is in flight from this instant; in any other
state it is ignored. -/
def State.attach (s : State) : State :=
  match s.host.session with
  | .detached =>
    { s with
      host := { s.host with
        faultCode := .none, initFieldIndex := 0, faultNotifyFailed := false
        session := .attaching s.host.initAddress s.capture.elapsed s.reads }
      reads := s.reads + 1 }
  | .attaching _ _ _ | .attached _ | .faulted _ => s

/-- A DETACH (R161): the state becomes DETACHED from any state; the fault code, field index and flag keep their values. -/
def State.detach (s : State) : State := { s with host := { s.host with session := .detached } }

/-- A ring at attachment, its indices 0 and its phase value 1 (R114). -/
def HostRing.fresh (base : BitVec 64) (size : Nat) : HostRing where
  base := base
  size := size
  producer := 0
  consumer := 0
  phase := true

/-- A vector at attachment (R168). -/
def NotifyVector.fresh (b : VectorBlock) : NotifyVector where
  armed := true
  count := 0
  timer := none
  threshold := b.threshold.toNat
  delay := b.delay.toNat
  address := b.address
  data := b.data

/-- The host side that a valid block sets up (R114, R160 steps 1 and 2). -/
def Attached.ofBlock (b : InitBlock) : Attached where
  commandRing := { base := b.commandBase, size := b.commandSize.toNat, producer := 0, consumer := 0 }
  completionRing := .fresh b.completionBase b.completionSize.toNat
  eventRings := Vector.ofFn fun n =>
    if (b.eventRings.get n).size = 0 then none
    else some (.fresh (b.eventRings.get n).base (b.eventRings.get n).size.toNat)
  systemRing := Fin.ofNat 4 b.systemRing.toNat
  vectors := Vector.ofFn fun v => .fresh (b.vectors.get v)
  command := .idle
  archiveEngine := .idle
  due := []

/-- The unsolicited ATTACHED completion, with the four values as they stand (R160 steps 4 and 5). -/
def attachedCompletion (c : Capture) (cause : ResetCause) : Completion where
  kind := attachedKind
  tag := 0xFFFF
  status := .success
  fieldIndex := 0
  result := attachedResult c.sequence c.timebase cause

/-- Whether the block read of a number is in flight and can still complete: it is not abandoned (R161), and its 50 ms have not passed
(R127, R158). That it may complete at the elapsed count of its issue is the model's (DESIGN CHOICE, log entry 23). -/
def State.blockReadInFlight (read : Nat) (s : State) : Bool :=
  match s.host.session with
  | .attaching _ dueAt number => decide (read = number) && decide (s.capture.elapsed ≤ dueAt + Config.dmaTimeout)
  | .detached | .attached _ | .faulted _ => false

/-- A valid block makes the session ATTACHED (R160). -/
def State.sessionAttached (b : InitBlock) (s : State) : State :=
  (s.withHost (Attached.ofBlock b)).handCompletion (attachedCompletion s.capture s.host.resetCause)

/-- A block that fails validation ends the attachment with INIT_INVALID and the index of the failing field (R159, R162). -/
def State.initInvalid (index : Nat) (s : State) : State :=
  { s.raiseFault .initInvalid with
    host := { (s.raiseFault .initInvalid).host with initFieldIndex := BitVec.ofNat 6 index } }

/-- The meaning of good data for the initialisation block (R159); the completion of a block read that is not in flight is discarded
(R161). -/
def State.blockRead (read : Nat) (b : InitBlock) (s : State) : State :=
  if s.blockReadInFlight read then
    match blockFailure b with
    | some index => s.initInvalid index
    | none => s.sessionAttached b
  else s

/-- ATTACH (R158). -/
def execAttach (s : State) : Host.Outcome State Fault Refusal := .next s.attach

/-- BLOCK_READ_COMPLETE (R159, R160). -/
def execBlockReadComplete (answer : BlockAnswer) (s : State) : Host.Outcome State Fault Refusal :=
  .next (s.blockRead answer.read answer.block)

/-- INIT_BUS_ERROR (R158): the block read ends in a bus error, and the attachment faults. -/
def execInitBusError (cause : ReadFailure) (s : State) : Host.Outcome State Fault Refusal :=
  .next (match s.host.session with
    | .attaching _ dueAt number => if readFails cause dueAt number s.capture.elapsed then s.raiseFault .initBusError else s
    | .detached | .attached _ | .faulted _ => s)

/-- DETACH (R161). -/
def execDetach (s : State) : Host.Outcome State Fault Refusal := .next s.detach

/-- RESET (R165): a warm reset with cause HOST. -/
def execReset (s : State) : Host.Outcome State Fault Refusal := .next (s.warmReset .host)

/-- LINK_RESET (R165): a warm reset with cause LINK, whichever way the link resets the part. -/
def execLinkReset (_origin : LinkResetOrigin) (s : State) : Host.Outcome State Fault Refusal := .next (s.warmReset .link)

/-- POWER_ON_RESET (R166): every state of the part takes its power-on value; the first samples of the pins set the raw levels
and the level of SYNC (R2, R44). What is already on the link stands. -/
def execPowerOnReset (levels : BitVec 48) (sync : Level) (s : State) : Host.Outcome State Fault Refusal :=
  .next { s with capture := Capture.powerOn levels sync, host := HostSide.afterReset .powerOn }

end Sys2Proof.Machine
end

