-- ==== Sys2Proof/Machine/Registers.lean ====
section
/-! DEFINITION. Register writes (Chapters 7 and 11): CMD_TAIL, CPL_HEAD, EVT_HEAD and REGISTER_WRITE. -/

namespace Sys2Proof.Machine

/-- A CMD_TAIL write in an ATTACHED session (R118); ignored in any other state (R117). -/
def State.writeCmdTail (value : BitVec 32) (s : State) : State :=
  match s.host.session with
  | .attached h =>
    if value.toNat < h.commandRing.size then
      s.withHost { h with commandRing := { h.commandRing with producer := value.toNat } }
    else s.raiseFault .badTailIndex
  | .detached | .attaching _ _ _ | .faulted _ => s

/-- A CPL_HEAD write in an ATTACHED session: the consumer index is set and vector 0 armed, or the session faults (R119,
R172). -/
def State.writeCplHead (value : BitVec 32) (s : State) : State :=
  match s.host.session with
  | .attached h =>
    if h.completionRing.validHead value.toNat then
      s.withHost ({ h with completionRing := { h.completionRing with consumer := value.toNat } }.arm 0 s.capture.elapsed)
    else s.raiseFault .badHeadIndex
  | .detached | .attaching _ _ _ | .faulted _ => s

/-- An EVT_HEAD[n] write in an ATTACHED session: the consumer index is set and vector n + 1 armed, or the session faults; a
write for an absent ring is invalid (R119, R172). -/
def State.writeEvtHead (ring : RingNo) (value : BitVec 32) (s : State) : State :=
  match s.host.session with
  | .attached h =>
    match h.eventRing ring with
    | some r =>
      if r.validHead value.toNat then
        s.withHost ({ h with eventRings := h.eventRings.set ring.val (some { r with consumer := value.toNat }) }.arm
          (ringVector ring) s.capture.elapsed)
      else s.raiseFault .badHeadIndex
    | none => s.raiseFault .badHeadIndex
  | .detached | .attaching _ _ _ | .faulted _ => s

/-- Whether INIT_ADDR may be written: in DETACHED (R156). -/
def Session.isDetached : Session → Bool
  | .detached => true
  | .attaching _ _ _ | .attached _ | .faulted _ => false

/-- A CONTROL write (R157, R177): one of three command values, and any other value is ignored. -/
def State.writeControl (value : BitVec 32) (s : State) : State :=
  if value = 1#32 then s.attach
  else if value = 2#32 then s.detach
  else if value = 4#32 then s.warmReset .host
  else s

/-- One 32-bit write of the register window (R176): ignored unless it covers all four bytes; stored in INIT_ADDR_LO and
INIT_ADDR_HI in DETACHED; at a register with behaviour of its own, that behaviour; ignored at IDENT, at STATUS and at an offset
that is no register's. -/
def State.writeRegister (offset : BitVec 12) (value : BitVec 32) (enables : BitVec 4) (s : State) : State :=
  if enables = 0xF#4 then
    match offset.toNat with
    | 0x008 => s.writeControl value
    | 0x010 => if s.host.session.isDetached then { s with host := { s.host with initAddrLo := value } } else s
    | 0x014 => if s.host.session.isDetached then { s with host := { s.host with initAddrHi := value } } else s
    | 0x020 => s.writeCmdTail value
    | 0x024 => s.writeCplHead value
    | 0x030 => s.writeEvtHead 0 value
    | 0x034 => s.writeEvtHead 1 value
    | 0x038 => s.writeEvtHead 2 value
    | 0x03C => s.writeEvtHead 3 value
    | _ => s
  else s

/-- CMD_TAIL (R118). -/
def execCmdTail (value : BitVec 32) (s : State) : Host.Outcome State Fault Refusal := .next (s.writeCmdTail value)

/-- CPL_HEAD (R119). -/
def execCplHead (value : BitVec 32) (s : State) : Host.Outcome State Fault Refusal := .next (s.writeCplHead value)

/-- EVT_HEAD (R119). -/
def execEvtHead (ring : RingNo) (value : BitVec 32) (s : State) : Host.Outcome State Fault Refusal :=
  .next (s.writeEvtHead ring value)

/-- REGISTER_WRITE (R176, R156, R157). -/
def execRegisterWrite (offset : BitVec 12) (value : BitVec 32) (enables : BitVec 4) (s : State) :
    Host.Outcome State Fault Refusal :=
  .next (s.writeRegister offset value enables)

end Sys2Proof.Machine
end

