-- ==== Sys2Proof/Machine/Release.lean ====
section
/-! DEFINITION. The release unit's steps (Chapters 4 and 5): ENTRY_ELIGIBLE, RELEASE_STEP, and RETENTION_DISTURBANCE of what was
released (R98). -/

namespace Sys2Proof.Machine

/-- The record that a release step for ring `n` releases ahead of or from the entry `e`: a GAP when the ring's tally is not
zero, otherwise the entry itself (R67). -/
def Capture.releasedRecord (c : Capture) (n : RingNo) (e : Entry) : EventRecord :=
  if (c.tally n).count = 0 then e.released c.sequence else gapRecord (c.tally n) e c.sequence

/-- A release step for ring `n`, whose first entry is `e`, at the capture side: the tally is cleared by the GAP or the entry is
removed, the number is assigned and the record is appended (R67, R68, R89). -/
def Capture.release (n : RingNo) (e : Entry) (c : Capture) : Capture :=
  { c with
    staging := if (c.tally n).count = 0 then c.staging.eraseP (fun x => decide (x.ring = n)) else c.staging
    tallies := if (c.tally n).count = 0 then c.tallies else c.tallies.set n.val { count := 0, classes := 0 }
    sequence := c.sequence + 1
    archive := c.archive.append c.sequence (c.releasedRecord n e).archived }

/-- A release step for ring `n` (R67): taken when the first entry targeted at `n` is eligible and the ring can take a record
(R66), and without effect otherwise. To an attached ring the record claims a slot in the same event (R69); otherwise the
release is archive-only (R71). -/
def State.releaseStep (n : RingNo) (s : State) : State :=
  match s.capture.liveClaim n with
  | none => s
  | some e =>
    if s.canTake n then
      (s.onCapture (Capture.release n e)).onHost fun h =>
        h.claimSlot n (s.capture.releasedRecord n e).archived false false s.capture.elapsed
    else s

/-- ENTRY_ELIGIBLE (R63). Eligibility is a comparison of the elapsed count with the entry's capture instant plus the horizon
in force, judged anew at every instant: reaching it moves no state. The release it makes due is RELEASE_STEP (R66). -/
def execEntryEligible (_ring : RingNo) (s : State) : Host.Outcome State Fault Refusal := .next s

/-- RELEASE_STEP (R67). -/
def execReleaseStep (ring : RingNo) (s : State) : Host.Outcome State Fault Refusal := .next (s.releaseStep ring)

/-- RETENTION_DISTURBANCE (R98): the stored content of the entry of `seq` is changed; nothing is noticed. -/
def execRetentionDisturbance (seq : Nat) (record : Record32) (code : BitVec 16) (s : State) :
    Host.Outcome State Fault Refusal :=
  .next (s.onCapture fun c => { c with archive := c.archive.disturb seq record code })

end Sys2Proof.Machine
end

