-- ==== Sys2Proof/Machine/Clock.lean ====
section
/-! DEFINITION. What the part does when no command waits: an event of its own that is due at this instant, and otherwise one
microsecond of the elapsed count (R38, R39). The order in which events due at one instant are taken here is a DESIGN CHOICE (log
entry 1): the manual lets any be taken first, and the queue of commands can spell every order. -/

namespace Sys2Proof.Machine

/-- The commands of one line that are due at this instant. -/
def lineEventsDue (c : Capture) (i : LineNo) : List Instr :=
  (if c.debounceDue i then [.debounceExpiry i] else []) ++
  (if c.windowDue i then [.windowTimerExpiry i] else []) ++
  (if c.quietDue i then [.quietTimerExpiry i] else [])

/-- The timebase's own expiries that are due (R46, R48, R49). -/
def timebaseEventsDue (c : Capture) : List Instr :=
  (if c.timebase.holdDue c.elapsed then [.holdExpiry] else []) ++
  (if c.timebase.lossDue c.elapsed then [.lossExpiry] else []) ++
  (if c.timebase.holdoverDue c.elapsed then [.holdoverExpiry] else [])

/-- The coalescing timers of a session that are due (R170). -/
def timersDue (h : Attached) (now : Nat) : List Instr :=
  ((List.finRange 6).filter fun v => h.timerDue v now).map Instr.coalescingTimerExpiry

/-- The DMA timeouts of a session that are due (R127, R128). -/
def timeoutsDue (h : Attached) (now : Nat) : List Instr :=
  (match h.command with
    | .reading _ dueAt _ => if timedOut dueAt now then [.readBusError .timeout] else []
    | .idle | .executing _ _ => []) ++
  (match h.due with
    | w :: _ => if timedOut w.dueAt now then [.writeBusError] else []
    | [] => [])

/-- The archive engine's own events: a read whose 10 µs have run out, and a grant that the arbiter makes (R102, R106, R125). -/
def archiveEventsDue (s : State) (h : Attached) : List Instr :=
  match h.archiveEngine with
  | .idle => []
  | .replaying c _ none => if c.readFrom + Config.readSpan ≤ s.capture.elapsed then [.replayRead] else []
  | .replaying _ ring (some _) => if s.grantsCopy ring then [.replayGrant] else []
  | .verifying c _ => if c.readFrom + Config.readSpan ≤ s.capture.elapsed then [.verifyRead] else []

/-- The session's own events that are due. -/
def sessionEventsDue (s : State) : List Instr :=
  match s.host.session with
  | .detached => []
  | .attaching _ dueAt _ => if timedOut dueAt s.capture.elapsed then [.initBusError .timeout] else []
  | .attached h =>
    timersDue h s.capture.elapsed ++ timeoutsDue h s.capture.elapsed ++
    (if h.canTakeCommand then [.commandTake] else []) ++ archiveEventsDue s h
  | .faulted none => []
  | .faulted (some w) => if timedOut w.dueAt s.capture.elapsed then [.faultNotifyFailed] else []

/-- The release steps that are due (R66). -/
def releasesDue (s : State) : List Instr :=
  ((List.finRange 4).filter fun n => (s.capture.liveClaim n).isSome && s.canTake n).map Instr.releaseStep

/-- The part's own events that are due at this instant. -/
def eventsDue (s : State) : List Instr :=
  (List.finRange 48).flatMap (lineEventsDue s.capture) ++ timebaseEventsDue s.capture ++ releasesDue s ++ sessionEventsDue s

/-- The time value one microsecond later: it stands still while a hold runs (R39). -/
def Timebase.tick (t : Timebase) : Timebase :=
  match t.holdExpiry with
  | none => { t with timeValue := t.timeValue + 1 }
  | some _ => t

/-- One microsecond passes (R38, R39). The elapsed count stops at its 64 bits with a fault (log entry 2). -/
def tick (s : State) : Host.Outcome State Fault Refusal :=
  if s.capture.elapsed + 1 < Config.elapsedLimit then
    .next { s with capture := { s.capture with
      elapsed := s.capture.elapsed + 1, timebase := s.capture.timebase.tick } }
  else .fault .elapsedCountExhausted

end Sys2Proof.Machine
end

