-- ==== Sys2Proof/Machine/Dispatch.lean ====
section
/-! DEFINITION. The meaning of each command: one arm per constructor of `Instr`. -/

namespace Sys2Proof.Machine

def exec (i : Instr) (s : State) : Host.Outcome State Fault Refusal :=
  match i with
  | .rawChange line level => Sys2Proof.Machine.execRawChange line level s
  | .debounceExpiry line => Sys2Proof.Machine.execDebounceExpiry line s
  | .windowTimerExpiry line => Sys2Proof.Machine.execWindowTimerExpiry line s
  | .quietTimerExpiry line => Sys2Proof.Machine.execQuietTimerExpiry line s
  | .syncPulse level => Sys2Proof.Machine.execSyncPulse level s
  | .holdExpiry => Sys2Proof.Machine.execHoldExpiry s
  | .lossExpiry => Sys2Proof.Machine.execLossExpiry s
  | .holdoverExpiry => Sys2Proof.Machine.execHoldoverExpiry s
  | .entryEligible ring => Sys2Proof.Machine.execEntryEligible ring s
  | .releaseStep ring => Sys2Proof.Machine.execReleaseStep ring s
  | .replayRead => Sys2Proof.Machine.execReplayRead s
  | .replayGrant => Sys2Proof.Machine.execReplayGrant s
  | .verifyRead => Sys2Proof.Machine.execVerifyRead s
  | .commandTake => Sys2Proof.Machine.execCommandTake s
  | .badKind kind head => Sys2Proof.Machine.execBadKind kind head s
  | .configureLines head params => Sys2Proof.Machine.execConfigureLines head params s
  | .configureGroup head group cls ring enabled => Sys2Proof.Machine.execConfigureGroup head group cls ring enabled s
  | .configureTimebase head enable edge tolerance limit => Sys2Proof.Machine.execConfigureTimebase head enable edge tolerance limit s
  | .setTime head value => Sys2Proof.Machine.execSetTime head value s
  | .getTime head => Sys2Proof.Machine.execGetTime head s
  | .snapshotLevels head address => Sys2Proof.Machine.execSnapshotLevels head address s
  | .snapshotCounters head groupMask clear => Sys2Proof.Machine.execSnapshotCounters head groupMask clear s
  | .readStatistics head address clear => Sys2Proof.Machine.execReadStatistics head address clear s
  | .replay head first count ring => Sys2Proof.Machine.execReplay head first count ring s
  | .verifyArchive head first count => Sys2Proof.Machine.execVerifyArchive head first count s
  | .abort head target => Sys2Proof.Machine.execAbort head target s
  | .setNotify head vector threshold delay => Sys2Proof.Machine.execSetNotify head vector threshold delay s
  | .memoryWriteIssue => Sys2Proof.Machine.execMemoryWriteIssue s
  | .coalescingTimerExpiry vector => Sys2Proof.Machine.execCoalescingTimerExpiry vector s
  | .cmdTail value => Sys2Proof.Machine.execCmdTail value s
  | .cplHead value => Sys2Proof.Machine.execCplHead value s
  | .evtHead ring value => Sys2Proof.Machine.execEvtHead ring value s
  | .registerWrite offset value enables => Sys2Proof.Machine.execRegisterWrite offset value enables s
  | .attach => Sys2Proof.Machine.execAttach s
  | .blockReadComplete answer => Sys2Proof.Machine.execBlockReadComplete answer s
  | .initBusError cause => Sys2Proof.Machine.execInitBusError cause s
  | .readBusError cause => Sys2Proof.Machine.execReadBusError cause s
  | .writeBusError => Sys2Proof.Machine.execWriteBusError s
  | .faultNotifyFailed => Sys2Proof.Machine.execFaultNotifyFailed s
  | .detach => Sys2Proof.Machine.execDetach s
  | .reset => Sys2Proof.Machine.execReset s
  | .linkReset origin => Sys2Proof.Machine.execLinkReset origin s
  | .powerOnReset levels sync => Sys2Proof.Machine.execPowerOnReset levels sync s
  | .retentionDisturbance seq record code => Sys2Proof.Machine.execRetentionDisturbance seq record code s

end Sys2Proof.Machine
end

