-- ==== Sys2Proof/Machine/Step.lean ====
section
/-! DEFINITION. One step of the machine: the command at the front of the queue, or, when none waits, an event of the part's own
that is due, or one microsecond. -/

namespace Sys2Proof.Machine

/-- One step with no command waiting (log entry 1). -/
def idleStep (s : State) : Host.Outcome State Fault Refusal :=
  match eventsDue s with
  | c :: _ => exec c s
  | [] => tick s

/-- One step: the command at the front of the queue is executed with the rest of the queue left; an empty queue leaves the part
to itself. -/
def step (s : State) : Host.Outcome State Fault Refusal :=
  match s.pending with
  | c :: rest => exec c { s with pending := rest }
  | [] => idleStep s

/-- The state with the command that a word of the opcode table spells put at the front of its queue; the state itself where the
word spells none. -/
def State.withFetchWord (s : State) (nbits w : Nat) : State :=
  match decodeTableWord nbits w with
  | some c => { s with pending := c :: s.pending }
  | none => s

end Sys2Proof.Machine
end

