-- ==== Sys2Proof/Machine/Flags.lean ====
section
/-! DEFINITION. What register reads return: STATUS and the other registers of the window (R164, R176, R177, R117). A read has no
effect on any state, so it is a function of the state and no command. -/

namespace Sys2Proof.Machine

/-- The archive engine busy field of STATUS: 1 while REPLAYING or VERIFYING (R164). -/
def Session.engineBusy : Session → Bool
  | .attached h => decide (h.archiveEngine.promised = 1)
  | .detached | .attaching _ _ _ | .faulted _ => false

/-- A field of a 32-bit register at a bit position. -/
def bitsAt {w : Nat} (position : Nat) (x : BitVec w) : BitVec 32 := x.setWidth 32 <<< position

/-- The value STATUS reads (R164, R177). -/
def State.status (s : State) : BitVec 32 :=
  bitsAt 0 s.host.session.code ||| bitsAt 4 s.host.faultCode.code ||| bitsAt 8 s.host.initFieldIndex |||
  bitsAt 16 s.host.resetCause.code ||| bitsAt 20 s.capture.timebase.quality.code |||
  bitsAt 24 (BitVec.ofBool s.host.session.engineBusy) ||| bitsAt 25 (BitVec.ofBool s.host.faultNotifyFailed)

/-- The index CMD_TAIL reads: the host producer index held, 0 outside ATTACHED (R117). -/
def Session.commandTail : Session → Nat
  | .attached h => h.commandRing.producer
  | .detached | .attaching _ _ _ | .faulted _ => 0

/-- The index CPL_HEAD reads (R117). -/
def Session.completionHead : Session → Nat
  | .attached h => h.completionRing.consumer
  | .detached | .attaching _ _ _ | .faulted _ => 0

/-- The index EVT_HEAD[n] reads: 0 outside ATTACHED and for an absent ring (R117). -/
def State.eventHead (s : State) (n : RingNo) : Nat :=
  match s.attachedRing n with
  | none => 0
  | some r => r.consumer

/-- The value that a read of the register window returns at an offset (R176, R177). -/
def State.readRegister (offset : BitVec 12) (s : State) : BitVec 32 :=
  match offset.toNat with
  | 0x000 => 0x48430100#32
  | 0x004 => s.status
  | 0x010 => s.host.initAddrLo
  | 0x014 => s.host.initAddrHi
  | 0x020 => BitVec.ofNat 32 s.host.session.commandTail
  | 0x024 => BitVec.ofNat 32 s.host.session.completionHead
  | 0x030 => BitVec.ofNat 32 (s.eventHead 0)
  | 0x034 => BitVec.ofNat 32 (s.eventHead 1)
  | 0x038 => BitVec.ofNat 32 (s.eventHead 2)
  | 0x03C => BitVec.ofNat 32 (s.eventHead 3)
  | _ => 0

end Sys2Proof.Machine
end

