-- ==== Sys2Proof/Safety.lean ====
section
/-! DEFINITION. What a sound state of the part is (the manual's laws of the device, as invariants), and the words the statements
use for what a command leaves unchanged. -/

namespace Sys2Proof.Machine

/-! ### Frames -/

/-- `t` is `s` but for its capture side. -/
abbrev SameButCapture (s t : State) : Prop := t = { s with capture := t.capture }

/-- `t` is `s` but for its lines. -/
abbrev SameButLines (s t : State) : Prop := t = { s with capture := { s.capture with lines := t.capture.lines } }

/-- Every line but `i` is as it was. -/
abbrev OtherLinesKept (i : LineNo) (s t : State) : Prop := ∀ j, j ≠ i → t.capture.line j = s.capture.line j

/-- `t` is `s` but for its session. -/
abbrev SameButSession (s t : State) : Prop := t = { s with host := { s.host with session := t.host.session } }

/-- A line is as it was but for its shed count (R87). -/
abbrev SameButShedCount (l m : Line) : Prop := m = { l with shedCount := m.shedCount }

/-- `t` is `s` but for what a record handed to the staging queue may touch: the queue, the high-water mark, the tallies and the
shed counts of lines (R60, R62, R86, R87). -/
abbrev SameButStaging (s t : State) : Prop :=
  t = { s with capture := { s.capture with
    staging := t.capture.staging, highWater := t.capture.highWater, tallies := t.capture.tallies
    lines := t.capture.lines } } ∧
  ∀ i, SameButShedCount (s.capture.line i) (t.capture.line i)

/-! ### The lines (R1, R3, R21, R32) -/

/-- The configured values lie in the ranges of R1. -/
abbrev LineConfig.InRange (cfg : LineConfig) : Prop :=
  cfg.debounce ≤ 200000 ∧ cfg.chatterLimit ≠ 1 ∧ cfg.chatterLimit ≤ 255 ∧
  1 ≤ cfg.chatterWindow ∧ cfg.chatterWindow ≤ 60000 ∧ 1 ≤ cfg.quietTime ∧ cfg.quietTime ≤ 600000

/-- The qualifier state agrees with the role and with the raw level (R1, R3). -/
abbrev Line.QualifierAgrees (l : Line) : Prop :=
  match l.qualifier with
  | .off => l.config.role = .off
  | .stable level => l.config.role ≠ .off ∧ l.config.logical l.raw = level
  | .candidate level target _ _ => l.config.role ≠ .off ∧ l.config.logical l.raw = target ∧ level = !target

/-- The chatter state agrees with the configuration: at rest where detection is not in force, and a count in COUNTING from 1
to the limit minus 1 (R21, section 2.1). -/
abbrev Line.ChatterAgrees (l : Line) : Prop :=
  match l.chatter with
  | .quiet => True
  | .counting count _ => l.config.chatterInForce = true ∧ 1 ≤ count ∧ count < l.config.chatterLimit
  | .chattering _ => l.config.chatterInForce = true

/-- A sound line: its values in range, its states in agreement, and its counter 0 outside COUNT role (R32). -/
abbrev Line.Sound (l : Line) : Prop :=
  l.config.InRange ∧ l.QualifierAgrees ∧ l.ChatterAgrees ∧ (l.config.role ≠ .count → l.counter = 0)

/-- Every line is sound. -/
abbrev LinesSound (c : Capture) : Prop := ∀ i, (c.line i).Sound

/-- The horizon is what R19 computes from the line table. -/
abbrev HorizonSound (c : Capture) : Prop := c.horizon = largestDebounce c.lines + Config.releaseMargin

/-! ### The staging queue (R59, R60, R62) -/

/-- The staging queue is in ascending key order and within its capacities, and so is the high-water mark. -/
abbrev StagingSound (c : Capture) : Prop :=
  c.staging.Pairwise (fun a b => a.keyLe b = true) ∧ c.staging.length ≤ 512 ∧ lineRecords c.staging ≤ 504 ∧
  c.highWater ≤ 512

/-! ### Stamps (R40, R64, R76) -/

/-- A capture instant with the generation and time value that went with it. -/
structure Moment where
  capture : Nat
  generation : Nat
  timeValue : Nat
  deriving DecidableEq, Repr

/-- The moment of a capture instant and its stamp. -/
def momentOf (capture : Nat) (stamp : Stamp) : Moment where
  capture := capture
  generation := stamp.generation.toNat
  timeValue := stamp.timeValue

/-- The moment a candidate holds. -/
def Qualifier.moment : Qualifier → Option Moment
  | .off => none
  | .stable _ => none
  | .candidate _ _ capture stamp => some (momentOf capture stamp)

/-- The moments of everything stamped that the part still holds: staged entries and pending candidates. -/
def Capture.moments (c : Capture) : List Moment :=
  c.staging.map (fun e => momentOf e.capture e.stamp) ++
  (List.finRange 48).filterMap (fun i => (c.line i).qualifier.moment)

/-- Generation and time value in the order of the release key: `a` not after `b`. -/
abbrev Moment.stampLe (a b : Moment) : Prop :=
  a.generation < b.generation ∨ (a.generation = b.generation ∧ a.timeValue ≤ b.timeValue)

/-- What is stamped later in elapsed count carries no earlier generation and time value (R40, R64), and nothing held is
stamped after now. -/
abbrev StampsSound (c : Capture) : Prop :=
  (∀ a ∈ c.moments, ∀ b ∈ c.moments, a.capture < b.capture → a.stampLe b) ∧
  (∀ a ∈ c.moments, a.capture ≤ c.elapsed ∧ a.stampLe (momentOf c.elapsed c.stamp))

/-! ### The timebase (R42, R43, R48, R49, R51, R139) -/

/-- The timebase's quality, runs and timers agree. -/
abbrev TimebaseSound (c : Capture) : Prop :=
  (c.timebase.quality = .unset ↔ c.timebase.generation = 0) ∧
  (c.timebase.quality = .unset → c.timebase.timeValue = c.elapsed ∧ c.timebase.holdExpiry = none) ∧
  (c.timebase.quality = .locked → c.timebase.lastAccepted.isSome = true ∧ c.timebase.syncEnable = true) ∧
  (c.timebase.quality = .holdover ↔ c.timebase.holdoverEntry.isSome = true) ∧
  (c.timebase.syncEnable = false → c.timebase.acceptedRun = 0 ∧ c.timebase.rejectedRun = 0) ∧
  (1 ≤ c.timebase.tolerance ∧ c.timebase.tolerance ≤ 50000) ∧
  (1 ≤ c.timebase.holdoverLimit ∧ c.timebase.holdoverLimit ≤ 86400) ∧
  c.holdRemaining ≤ 50000

/-! ### The archive (R94, R96, R97) -/

/-- The archive holds one entry for each number of one range, at most 16 384, and the newest is the last number assigned. -/
abbrev ArchiveSound (c : Capture) : Prop :=
  match c.archive.bounds with
  | none => c.archive.entries = [] ∧ c.sequence = 1
  | some b =>
    1 ≤ b.oldest ∧ b.oldest ≤ b.newest ∧ b.newest + 1 = c.sequence ∧
    c.archive.entries.length = b.newest + 1 - b.oldest ∧ c.archive.entries.length ≤ 16384

/-! ### The session (R114, R115, R121, R159, R164, R170, R173) -/

/-- A completion or event ring's indices lie within a valid size. -/
abbrev HostRing.Sound (r : HostRing) (high : Nat) : Prop :=
  16 ≤ r.size ∧ r.size ≤ high ∧ r.producer < r.size ∧ r.consumer < r.size

/-- A vector's timer runs only while it is ARMED with a count of at least 1, and its threshold and delay are in range. -/
abbrev NotifyVector.Sound (v : NotifyVector) : Prop :=
  (v.timer.isSome = true → v.armed = true ∧ 1 ≤ v.count) ∧ 1 ≤ v.threshold ∧ v.threshold ≤ 255 ∧ v.delay ≤ 65535

/-- The completions that the command engine owes: its own while it reads or executes (R121). -/
def CommandEngine.owed : CommandEngine → Nat
  | .idle => 0
  | .reading _ _ _ | .executing _ _ => 1

/-- The completion ring has a free slot for every completion that can become due before the next take (R121). -/
abbrev Attached.HasCompletionRoom (h : Attached) : Prop :=
  h.archiveEngine.promised + h.command.owed ≤ h.completionRing.freeSlots

/-- A REPLAY that runs has its ring in the session (R100). -/
abbrev Attached.ReplayRingPresent (h : Attached) : Prop :=
  match h.archiveEngine with
  | .replaying _ ring _ => (h.eventRing ring).isSome = true
  | .idle | .verifying _ _ => True

/-- A sound host side of an ATTACHED session. -/
abbrev Attached.Sound (h : Attached) : Prop :=
  (16 ≤ h.commandRing.size ∧ h.commandRing.size ≤ 4096 ∧ h.commandRing.producer < h.commandRing.size ∧
    h.commandRing.consumer < h.commandRing.size) ∧
  h.completionRing.Sound 4096 ∧
  (∀ n r, h.eventRing n = some r → r.Sound 65536) ∧
  (∀ v, (h.vector v).Sound) ∧
  ((h.vector 5).armed = true ∧ (h.vector 5).count = 0 ∧ (h.vector 5).timer = none) ∧
  h.HasCompletionRoom ∧ h.ReplayRingPresent

/-- The session state agrees with the fault state (R158, R162, R164), and an ATTACHED session is sound. -/
abbrev SessionSound (h : HostSide) : Prop :=
  match h.session with
  | .detached => True
  | .attaching _ _ _ => h.faultCode = .none ∧ h.initFieldIndex = 0 ∧ h.faultNotifyFailed = false
  | .attached a => a.Sound ∧ h.faultCode = .none ∧ h.initFieldIndex = 0 ∧ h.faultNotifyFailed = false
  | .faulted _ => h.faultCode ≠ .none

/-! ### The words of the statements: records and fields as bytes (R178, R179) -/

/-- A run of zero bytes. -/
def zeros (n : Nat) : List Byte := List.replicate n 0

/-- The 32 bytes of a completion record in the order of their offsets (R179); `result` is its last 24. -/
def completionBytes (kind : Byte) (phase : Bool) (tag : BitVec 16) (status : Byte) (index head : Nat) (result : List Byte) :
    List Byte :=
  [kind, if phase then 1 else 0] ++ bytesOf 2 tag ++ [status, BitVec.ofNat 8 index] ++ bytesOf 2 (BitVec.ofNat 16 head) ++ result

/-- The 32 bytes of an event record in the order of their offsets (R178). -/
def recordBytes (kind flags line levelGroup : Byte) (generation : BitVec 32) (sequence timeValue payload : BitVec 64) :
    List Byte :=
  [kind, flags, line, levelGroup] ++ bytesOf 4 generation ++ bytesOf 8 sequence ++ bytesOf 8 timeValue ++ bytesOf 8 payload

/-- The kind codes of event records, from the table of R178. -/
def kindByte : RecordKind → Byte
  | .edge => 0x01
  | .chatterOn => 0x02
  | .chatterOff => 0x03
  | .count => 0x04
  | .countWrap => 0x05
  | .gap => 0x08
  | .timeStep => 0x09

/-- The time-quality codes, from the table of R177, which records and results use too (R178, R179). -/
def qualityNumber : Quality → Nat
  | .unset => 0
  | .free => 1
  | .locked => 2
  | .holdover => 3

/-- The session state codes, from the table of R177. -/
def sessionNumber : Session → Nat
  | .detached => 0
  | .attaching _ _ _ => 1
  | .attached _ => 2
  | .faulted _ => 3

/-- The fault codes, from the table of R177. -/
def faultNumber : FaultCode → Nat
  | .none => 0
  | .initBusError => 1
  | .initInvalid => 2
  | .readBusError => 3
  | .writeBusError => 4
  | .badTailIndex => 5
  | .badHeadIndex => 6

/-- The reset cause codes, from the table of R177, which the ATTACHED completion uses too (R179). -/
def resetNumber : ResetCause → Nat
  | .powerOn => 0
  | .link => 1
  | .host => 2

/-- The archive engine busy field: 1 while REPLAYING or VERIFYING (R164, R177). -/
def busyNumber : Session → Nat
  | .attached h =>
    match h.archiveEngine with
    | .idle => 0
    | .replaying _ _ _ => 1
    | .verifying _ _ => 1
  | .detached => 0
  | .attaching _ _ _ => 0
  | .faulted _ => 0

/-- The flags byte of a live record: its time quality in bits 5 to 4, its phase in bit 0 (R178). -/
def liveFlags (q : Quality) (phase : Bool) : Byte := BitVec.ofNat 8 (16 * qualityNumber q + phase.toNat)

/-- The line field of a record: the line's number, or FFh where it names none (R178). -/
def lineByte : Option LineNo → Byte
  | some i => BitVec.ofNat 8 i.val
  | none => 0xFF

/-! ### The words of the statements: the lines and the staging queue -/

/-- The command confirms, in state `s`, a transition of line `i` to a level with a capture instant and a stamp, and finds the line
as given: the debounce expiry of a candidate that is due (R8), or a raw change on a line in STABLE with debounce 0 (R6). -/
inductive Confirms (s : State) (i : LineNo) : Instr → Line → Level → Nat → Stamp → Prop
  | expiry (level target : Level) (capture : Nat) (stamp : Stamp)
      (candidate : (s.capture.line i).qualifier = .candidate level target capture stamp)
      (due : capture + (s.capture.line i).config.debounce ≤ s.capture.elapsed) :
      Confirms s i (.debounceExpiry i) (s.capture.line i) target capture stamp
  | change (raw level : Level) (stable : (s.capture.line i).qualifier = .stable level)
      (noDebounce : (s.capture.line i).config.debounce = 0) (changed : (s.capture.line i).raw ≠ raw) :
      Confirms s i (.rawChange i raw) { s.capture.line i with raw := raw } (raw != (s.capture.line i).config.invert)
        s.capture.elapsed s.capture.stamp

/-- The chatter state of a line after a confirmed transition at `now` that is reported as an EDGE (R21, R22, R23). -/
inductive CountsTransition (now : Nat) (l : Line) : Chatter → Prop
  | notInForce (off : l.config.chatterLimit = 0) : CountsTransition now l l.chatter
  | opens (on : l.config.chatterLimit ≠ 0) (quiet : l.chatter = .quiet) :
      CountsTransition now l (.counting 1 (now + l.config.chatterWindow * 1000))
  | counts (count window : Nat) (counting : l.chatter = .counting count window) (below : count + 1 < l.config.chatterLimit) :
      CountsTransition now l (.counting (count + 1) window)

/-- Whether the report field selects a transition to a level (R11). -/
abbrev Reported (report : Report) (target : Level) : Prop :=
  report = .both ∨ (report = .rising ∧ target = true) ∨ (report = .falling ∧ target = false)

/-- A line record of line `i` in group `group`, whose entry of the group table is `g` (R12, R24, R27, R34, R35). -/
def lineRecordOf (g : Group) (i : LineNo) (group : GroupNo) (kind : RecordKind) (level : Level) (stamp : Stamp) (capture : Nat)
    (payload : BitVec 64) : Entry where
  kind := kind
  line := some i
  level := level
  group := group
  stamp := stamp
  capture := capture
  payload := payload
  cls := some g.cls
  ring := g.ring

/-- The capture side after a record is handed to the staging queue, where it is created; otherwise the capture side itself. -/
def Capture.handedWhen (created : Prop) [Decidable created] (e : Entry) (c : Capture) : Capture :=
  if created then (c.stage e).1 else c

/-- The COUNT record that a snapshot makes of line `i` (R35). -/
def Capture.countRecord (c : Capture) (i : LineNo) : Entry :=
  lineRecordOf (c.groups.get (c.line i).config.group) i (c.line i).config.group .count (c.line i).qualifier.level c.stamp c.elapsed
    (BitVec.ofNat 64 (c.line i).counter.toNat)

/-- The capture side after records are handed to the staging queue one after another, and of each whether it was held after its own
insertion (R35, R36). -/
def Capture.handedAll (c : Capture) : List Entry → Capture × List Bool
  | [] => (c, [])
  | e :: rest => (((c.stage e).1.handedAll rest).1, (c.stage e).2 :: ((c.stage e).1.handedAll rest).2)

/-- The release key of an entry: generation, time value, capture instant and line, in lexicographic order, a record without a line
having line FFh (R59). -/
def Entry.releaseKey (e : Entry) : Nat ×ₗ Nat ×ₗ Nat ×ₗ Nat :=
  toLex (e.stamp.generation.toNat, toLex (e.stamp.timeValue, toLex (e.capture,
    match e.line with
    | some i => i.val
    | none => 255)))

/-- The release margin above the largest debounce of a line not in OFF (R19). -/
abbrev IsHorizon (c : Capture) : Prop :=
  (∀ i, (c.line i).config.role ≠ .off → (c.line i).config.debounce + 500 ≤ c.horizon) ∧
  (((∀ i, (c.line i).config.role = .off) ∧ c.horizon = 500) ∨
    ∃ i, (c.line i).config.role ≠ .off ∧ (c.line i).config.debounce + 500 = c.horizon)

/-- A sample of SYNC that is a pulse to be evaluated: the active edge, with sync enabled and the quality not UNSET (R44). -/
abbrev SyncPulseAt (c : Capture) (level : Level) : Prop :=
  c.syncLevel ≠ level ∧ (c.timebase.activeEdge = .rising ↔ level = true) ∧ c.timebase.syncEnable = true ∧
  c.timebase.quality ≠ .unset

/-! ### The words of the statements: when a microsecond may pass -/

/-- Ring `n` holds a live claim: the first staged entry targeted at it is eligible, the elapsed count since its capture instant having
reached the horizon (R63, R66, R125). -/
abbrev LiveClaimFor (c : Capture) (n : RingNo) : Prop :=
  ∃ e, c.staging.find? (fun e => decide (e.ring = n)) = some e ∧ e.capture + c.horizon ≤ c.elapsed

/-- No event of the part's own has come due, so that a microsecond may pass. Each field is one of the manual's expiries, timeouts or
conditions, in its own words. That the part acts on a due event before the microsecond passes is the model's (log entry 1), and so
are that a write timeout concerns the first due write (log entry 14) and that an archive read waits for the end of its 10 µs (log
entry 15). -/
structure NothingDue (s : State) : Prop where
  /-- No candidate has stood for its line's debounce time (R8). -/
  debounce : ∀ i level target capture stamp, (s.capture.line i).qualifier = .candidate level target capture stamp →
    s.capture.elapsed < capture + (s.capture.line i).config.debounce
  /-- No window timer has run out (R26). -/
  window : ∀ i count expiry, (s.capture.line i).chatter = .counting count expiry → s.capture.elapsed < expiry
  /-- No quiet timer has run out (R27). -/
  quiet : ∀ i expiry, (s.capture.line i).chatter = .chattering expiry → s.capture.elapsed < expiry
  /-- A hold that runs has not ended (R46). -/
  hold : ∀ expiry, s.capture.timebase.holdExpiry = some expiry → s.capture.elapsed < expiry
  /-- In LOCKED, 2.5 s have not passed since the last accepted pulse (R48). -/
  loss : s.capture.timebase.quality = .locked → ∀ x, s.capture.timebase.lastAccepted = some x →
    s.capture.elapsed < x + 2500000
  /-- In HOLDOVER, the holdover limit has not been reached (R49). -/
  holdover : s.capture.timebase.quality = .holdover → ∀ x, s.capture.timebase.holdoverEntry = some x →
    s.capture.elapsed < x + s.capture.timebase.holdoverLimit * 1000000
  /-- A ring with a live claim is attached and has no free slot (R65, R66). -/
  release : ∀ n, LiveClaimFor s.capture n → ∃ r, s.attachedRing n = some r ∧ r.size - 1 ≤ r.occupied
  /-- The read of the initialisation block has not run out of its 50 ms (R127). -/
  blockRead : ∀ address dueAt number, s.host.session = .attaching address dueAt number → s.capture.elapsed < dueAt + 50000
  /-- The fault message has not run out of its 50 ms (R163). -/
  faultMessage : ∀ w, s.host.session = .faulted (some w) → s.capture.elapsed < w.dueAt + 50000
  /-- No coalescing timer has run out (R170). -/
  coalescing : ∀ h v expiry, s.host.session = .attached h → (h.vectors.get v).timer = some expiry → s.capture.elapsed < expiry
  /-- The command read has not run out of its 50 ms (R127). -/
  commandRead : ∀ h address dueAt number, s.host.session = .attached h → h.command = .reading address dueAt number →
    s.capture.elapsed < dueAt + 50000
  /-- The first due write has not run out of its 50 ms (R128). -/
  memoryWrite : ∀ h w rest, s.host.session = .attached h → h.due = w :: rest → s.capture.elapsed < w.dueAt + 50000
  /-- An idle command engine with a command waiting has no completion slot beyond those promised (R121). -/
  take : ∀ h, s.host.session = .attached h → h.command = .idle → h.commandRing.waiting ≠ 0 →
    h.completionRing.size - 1 - h.completionRing.occupied ≤ (if h.archiveEngine = .idle then 0 else 1)
  /-- The next archive read is within its 10 µs (R102, R106). -/
  archiveRead : ∀ h x, s.host.session = .attached h →
    ((∃ n, h.archiveEngine = .replaying x n none) ∨ ∃ crc, h.archiveEngine = .verifying x crc) →
    s.capture.elapsed < x.readFrom + 10
  /-- A held copy whose ring has a free slot waits for a live claim of that ring (R125). -/
  grant : ∀ h x n copy r, s.host.session = .attached h → h.archiveEngine = .replaying x n (some copy) →
    h.eventRings.get n = some r → r.occupied < r.size - 1 → LiveClaimFor s.capture n

/-! ### The words of the statements: the session -/

/-- The command read of a number is in flight in the ATTACHED session `h`, and its 50 ms have not passed (R122, R127); it may complete
from the elapsed count of its issue on (the model's, log entry 23). -/
abbrev ReadInFlight (s : State) (read : Nat) (h : Attached) : Prop :=
  s.host.session = .attached h ∧
  ∃ address dueAt, h.command = .reading address dueAt read ∧ s.capture.elapsed ≤ dueAt + 50000

/-- The number of the DMA read in flight, where one is: of the initialisation block in ATTACHING, of a command in ATTACHED (R122,
R158). -/
def State.readInFlight (s : State) : Option Nat :=
  match s.host.session with
  | .attaching _ _ number => some number
  | .attached h =>
    match h.command with
    | .reading _ _ number => some number
    | .idle => none
    | .executing _ _ => none
  | .detached => none
  | .faulted _ => none

/-- The read in flight is one that was issued. -/
abbrev ReadsSound (s : State) : Prop := ∀ number, s.readInFlight = some number → number < s.reads

/-- The session after the command read in flight has completed (R122). -/
def Attached.readDone (h : Attached) : Attached :=
  { h with
    commandRing := { h.commandRing with consumer := (h.commandRing.consumer + 1) % h.commandRing.size }
    command := .idle }

/-- The ring after its next slot is claimed (R115, R116). -/
def HostRing.claimed (r : HostRing) : HostRing :=
  { r with
    producer := (r.producer + 1) % r.size
    phase := if r.producer + 1 = r.size then !r.phase else r.phase }

/-- The session after a completion record has taken the next slot of the completion ring and its memory write has become due
(R123, R126). -/
def Attached.completed (h : Attached) (now : Nat) (kind : Byte) (tag : BitVec 16) (status : Byte) (index : Nat)
    (result : List Byte) : Attached :=
  { h with
    completionRing := h.completionRing.claimed
    due := h.due ++ [{
      source := .completion
      address := slotAddress h.completionRing.base 32 h.completionRing.producer
      data := completionBytes kind h.completionRing.phase tag status index h.commandRing.consumer result
      dueAt := now }] }

/-- The session after the command whose read is in flight has been answered by one completion. -/
def Attached.answered (h : Attached) (now : Nat) (kind : Byte) (tag : BitVec 16) (status : Byte) (index : Nat)
    (result : List Byte) : Attached :=
  h.readDone.completed now kind tag status index result

/-- The session after a record of 32 bytes has taken the next slot of event ring `n`, which is `r` (R124, R126). -/
def Attached.ringWritten (h : Attached) (n : RingNo) (r : HostRing) (now : Nat) (bytes : List Byte) : Attached :=
  { h with
    eventRings := h.eventRings.set n.val (some r.claimed)
    due := h.due ++ [{
      source := .record n
      address := slotAddress r.base 32 r.producer
      data := bytes
      dueAt := now }] }

/-- The session after vector `v` has sent (R171). -/
def Attached.messageSent (h : Attached) (v : VectorNo) (now : Nat) : Attached :=
  { h with
    vectors := h.vectors.set v.val { h.vectors.get v with armed := false, count := 0, timer := none }
    due := h.due ++ [{
      source := .message v
      address := (h.vectors.get v).address
      data := bytesOf 4 (h.vectors.get v).data
      dueAt := now }] }

/-- The host side after a fault has ended the ATTACHED session `h` (R162, R163). -/
def HostSide.faultedFrom (hs : HostSide) (h : Attached) (code : FaultCode) (now : Nat) : HostSide :=
  { hs with
    faultCode := code
    session := .faulted (some {
      source := .message 5
      address := (h.vectors.get 5).address
      data := bytesOf 4 (h.vectors.get 5).data
      dueAt := now }) }

/-- The host side after a warm reset (R165). -/
def HostSide.cleared (cause : ResetCause) : HostSide where
  initAddrLo := 0
  initAddrHi := 0
  faultCode := .none
  initFieldIndex := 0
  faultNotifyFailed := false
  resetCause := cause
  session := .detached

/-- The kind code and the tag of a host command of one of the twelve kinds (R179). -/
def commandHeader : Instr → Option (Byte × BitVec 16)
  | .configureLines head _ => some (0x01, head.tag)
  | .configureGroup head _ _ _ _ => some (0x02, head.tag)
  | .configureTimebase head _ _ _ _ => some (0x03, head.tag)
  | .setTime head _ => some (0x04, head.tag)
  | .getTime head => some (0x05, head.tag)
  | .snapshotLevels head _ => some (0x06, head.tag)
  | .snapshotCounters head _ _ => some (0x07, head.tag)
  | .readStatistics head _ _ => some (0x08, head.tag)
  | .replay head _ _ _ => some (0x09, head.tag)
  | .verifyArchive head _ _ => some (0x0A, head.tag)
  | .abort head _ => some (0x0B, head.tag)
  | .setNotify head _ _ _ => some (0x0C, head.tag)
  | .rawChange _ _ | .debounceExpiry _ | .windowTimerExpiry _ | .quietTimerExpiry _ | .syncPulse _ | .holdExpiry
  | .lossExpiry | .holdoverExpiry | .entryEligible _ | .releaseStep _ | .replayRead | .replayGrant | .verifyRead
  | .commandTake | .badKind _ _ | .memoryWriteIssue | .coalescingTimerExpiry _ | .cmdTail _ | .cplHead _ | .evtHead _ _
  | .registerWrite _ _ _ | .attach | .blockReadComplete _ | .initBusError _ | .readBusError _ | .writeBusError
  | .faultNotifyFailed | .detach | .reset | .linkReset _ | .powerOnReset _ _ | .retentionDisturbance _ _ _ => none

/-- Whether parameter `k` (2 and up) of a CONFIGURE_LINES is in its range (R135, section 8.3.1). -/
def linesFieldOk (p : LineParams) (k : Nat) : Prop :=
  match k with
  | 2 => p.lineMask ≠ 0 ∧ ∀ b, 48 ≤ b → p.lineMask.getLsbD b = false
  | 3 => p.role ≤ 2
  | 4 => p.invert ≤ 1
  | 5 => p.report ≤ 3
  | 6 => p.debounce ≤ 200000
  | 7 => p.chatterLimit ≠ 1
  | 8 => 1 ≤ p.chatterWindow ∧ p.chatterWindow ≤ 60000
  | 9 => 1 ≤ p.quietTime ∧ p.quietTime ≤ 600000
  | 10 => p.group ≤ 7
  | _ => True

/-- Whether field `k` of a host command of one of the twelve kinds is in its range: the tag is field 1, the parameters follow
(R132 and section 8.3). -/
def FieldOk (c : Instr) (k : Nat) : Prop :=
  match c, k with
  | .configureLines head _, 1 => head.tag ≠ 0xFFFF
  | .configureLines _ p, k => linesFieldOk p k
  | .configureGroup head _ _ _ _, 1 => head.tag ≠ 0xFFFF
  | .configureGroup _ group _ _ _, 2 => group ≤ 7
  | .configureGroup _ _ cls _ _, 3 => cls ≤ 3
  | .configureGroup _ _ _ ring _, 4 => ring ≤ 3
  | .configureGroup _ _ _ _ enabled, 5 => enabled ≤ 1
  | .configureTimebase head _ _ _ _, 1 => head.tag ≠ 0xFFFF
  | .configureTimebase _ enable _ _ _, 2 => enable ≤ 1
  | .configureTimebase _ _ edge _ _, 3 => edge ≤ 1
  | .configureTimebase _ _ _ tolerance _, 4 => 1 ≤ tolerance ∧ tolerance ≤ 50000
  | .configureTimebase _ _ _ _ limit, 5 => 1 ≤ limit ∧ limit ≤ 86400
  | .setTime head _, 1 => head.tag ≠ 0xFFFF
  | .setTime _ value, 2 => value < 0x8000000000000000
  | .getTime head, 1 => head.tag ≠ 0xFFFF
  | .snapshotLevels head _, 1 => head.tag ≠ 0xFFFF
  | .snapshotLevels _ address, 2 => 8 ∣ address.toNat
  | .snapshotCounters head _ _, 1 => head.tag ≠ 0xFFFF
  | .snapshotCounters _ groupMask _, 2 => groupMask ≠ 0
  | .snapshotCounters _ _ clear, 3 => clear ≤ 1
  | .readStatistics head _ _, 1 => head.tag ≠ 0xFFFF
  | .readStatistics _ address _, 2 => 8 ∣ address.toNat
  | .readStatistics _ _ clear, 3 => clear ≤ 1
  | .replay head _ _ _, 1 => head.tag ≠ 0xFFFF
  | .replay _ first _ _, 2 => first ≠ 0
  | .replay _ _ count _, 3 => 1 ≤ count ∧ count ≤ 16384
  | .replay _ _ _ ring, 4 => ring ≤ 3
  | .verifyArchive head _ _, 1 => head.tag ≠ 0xFFFF
  | .verifyArchive _ first _, 2 => first ≠ 0
  | .verifyArchive _ _ count, 3 => 1 ≤ count ∧ count ≤ 16384
  | .abort head _, 1 => head.tag ≠ 0xFFFF
  | .setNotify head _ _ _, 1 => head.tag ≠ 0xFFFF
  | .setNotify _ vector _ _, 2 => vector ≤ 5
  | .setNotify _ _ threshold _, 3 => 1 ≤ threshold
  | _, _ => True

/-- Every field of a host command is in its range, so that validation accepts it (R132). -/
abbrev Accepted (c : Instr) : Prop := ∀ k, FieldOk c k

/-- A power of two in a range: a valid ring size (R159). -/
abbrev IsRingSize (low high : Nat) (size : BitVec 32) : Prop :=
  low ≤ size.toNat ∧ size.toNat ≤ high ∧ ∃ e, size.toNat = 2 ^ e

/-- Whether field `k` of an initialisation block is valid (R159). -/
def BlockFieldOk (b : InitBlock) (k : Nat) : Prop :=
  (k = 0 → b.version = 1) ∧
  (k = 1 → 64 ∣ b.commandBase.toNat) ∧
  (k = 2 → IsRingSize 16 4096 b.commandSize) ∧
  (k = 3 → 32 ∣ b.completionBase.toNat) ∧
  (k = 4 → IsRingSize 16 4096 b.completionSize) ∧
  (∀ n : RingNo, k = 5 + 2 * n.val → (b.eventRings.get n).size ≠ 0 → 32 ∣ (b.eventRings.get n).base.toNat) ∧
  (∀ n : RingNo, k = 6 + 2 * n.val → (b.eventRings.get n).size ≠ 0 → IsRingSize 16 65536 (b.eventRings.get n).size) ∧
  (k = 13 → ∃ n : RingNo, b.systemRing.toNat = n.val ∧ (b.eventRings.get n).size ≠ 0) ∧
  (∀ v : VectorNo, k = 16 + 4 * v.val → 1 ≤ (b.vectors.get v).threshold.toNat)

/-! ### What a step may change -/

/-- What a state property `p` that every step keeps is. -/
abbrev KeptByStep (p : State → Prop) : Prop := ∀ s t, p s → step s = .next t → p t

end Sys2Proof.Machine
end

