-- ==== Sys2Proof/Certificates/Slice0/Obligations.lean ====
section
/-! DEFINITION. The statements for the provers. Each says what one or several commands of the part do in every state, or a law of
the whole part. -/

section Statements

open Sys2Proof Sys2Proof.Machine

/-! ### The machine -/

/-- One step of a state with a command at the front of its queue is that command's effect with the rest of the queue. -/
def Obligations.StepRunsFrontCommand : Prop :=
  ∀ (c : Instr) (s : State), step { s with pending := c :: s.pending } = exec c s

/-- With no command waiting, a step takes the first of the part's own events that are due. None is due exactly where no debounce,
window, quiet, hold, loss, holdover or coalescing expiry has come, no release step and no take can be made, no 50 ms timeout has come
and no archive read or grant is called for (`NothingDue`), and only there one microsecond passes: the elapsed count rises by 1, and
so does the time value unless a hold runs (R38, R39). That an empty queue lets time pass once nothing is due, and the order among
events due at one instant, are the model's (log entry 1); the stop at the end of the 64-bit count is the model's (log entry 2), and
so are that a write timeout concerns the first due write (log entry 14) and that an idle part makes an archive read at the end of its
10 µs (log entry 15). -/
def Obligations.IdleStepTakesDueEventOrMicrosecond : Prop :=
  ∀ s : State, s.pending = [] →
    (∀ c rest, eventsDue s = c :: rest → step s = exec c s) ∧
    (eventsDue s = [] ↔ NothingDue s) ∧
    (NothingDue s → s.capture.elapsed + 1 < 2 ^ 64 →
      step s = .next { s with capture := { s.capture with
        elapsed := s.capture.elapsed + 1
        timebase := { s.capture.timebase with
          timeValue :=
            if s.capture.timebase.holdExpiry = none then s.capture.timebase.timeValue + 1
            else s.capture.timebase.timeValue } } }) ∧
    (NothingDue s → 2 ^ 64 ≤ s.capture.elapsed + 1 → step s = .fault .elapsedCountExhausted)

/-- Every event of the part's own that is due changes the state when it is taken, and passes no time: idling never stands still
on an event. Which events an idle part finds due is the model's list (log entry 1). -/
def Obligations.DueEventsChangeTheState : Prop :=
  ∀ (s : State) (c : Instr), c ∈ eventsDue s → ∃ t, exec c s = .next t ∧ t ≠ s ∧ t.capture.elapsed = s.capture.elapsed

/-- Every command completes in every state, none touches the queue, the elapsed count moves only at a power-on reset, and a write
on the link is never withdrawn: the one command that puts a write on the link is MEMORY_WRITE_ISSUE (R38, R126). That a command
presented without its condition completes too, with no effect, is the model's (log entry 6), and so are the two fields that hold the
queue and the link's writes, and that every reset leaves them (log entry 5). -/
def Obligations.EveryCommandCompletes : Prop :=
  ∀ (c : Instr) (s : State), ∃ t, exec c s = .next t ∧ t.pending = s.pending ∧
    (t.link = s.link ∨ (c = .memoryWriteIssue ∧ ∃ w, t.link = w :: s.link)) ∧
    (t.capture.elapsed = s.capture.elapsed ∨ ∃ levels sync, c = .powerOnReset levels sync)

/-- The commands named in the first part leave the capture side as it is: BAD_KIND, GET_TIME, SNAPSHOT_LEVELS, REPLAY, VERIFY_ARCHIVE,
ABORT, SET_NOTIFY, the archive engine's own events, COMMAND_TAKE, memory writes and messages, register writes, and the events of a
session (R113, R154, R165). The commands named in the second part leave the host side as it is: the events of the qualifier and the
timebase, ENTRY_ELIGIBLE and the retention disturbance (R98). Neither part says anything of the commands that act on both sides. -/
def Obligations.SidesKeptApart : Prop :=
  (∀ (s t : State) (c : Instr), exec c s = .next t →
    (c = .replayRead ∨ c = .replayGrant ∨ c = .verifyRead ∨ c = .commandTake ∨ (∃ read kind tag, c = .badKind kind ⟨read, tag⟩) ∨
      (∃ read tag, c = .getTime ⟨read, tag⟩) ∨ (∃ read tag a, c = .snapshotLevels ⟨read, tag⟩ a) ∨
      (∃ read tag f n r, c = .replay ⟨read, tag⟩ f n r) ∨
      (∃ read tag f n, c = .verifyArchive ⟨read, tag⟩ f n) ∨ (∃ read tag x, c = .abort ⟨read, tag⟩ x) ∨
      (∃ read tag v n d, c = .setNotify ⟨read, tag⟩ v n d) ∨
      c = .memoryWriteIssue ∨ (∃ v, c = .coalescingTimerExpiry v) ∨ (∃ v, c = .cmdTail v) ∨ (∃ v, c = .cplHead v) ∨
      (∃ n v, c = .evtHead n v) ∨ (∃ o v e, c = .registerWrite o v e) ∨ c = .attach ∨ (∃ read b, c = .blockReadComplete ⟨read, b⟩) ∨
      (∃ k, c = .initBusError k) ∨ (∃ k, c = .readBusError k) ∨ c = .writeBusError ∨ c = .faultNotifyFailed ∨ c = .detach ∨
      c = .reset ∨ ∃ k, c = .linkReset k) →
    t.capture = s.capture) ∧
  (∀ (s t : State) (c : Instr), exec c s = .next t →
    ((∃ i l, c = .rawChange i l) ∨ (∃ i, c = .debounceExpiry i) ∨ (∃ i, c = .windowTimerExpiry i) ∨
      (∃ i, c = .quietTimerExpiry i) ∨ (∃ l, c = .syncPulse l) ∨ c = .holdExpiry ∨ c = .lossExpiry ∨ c = .holdoverExpiry ∨
      (∃ n, c = .entryEligible n) ∨ ∃ q r k, c = .retentionDisturbance q r k) →
    t.host = s.host)

/-- A power-on reset in any state sets every state of the part to its power-on value (R166), and the state right after reset is the
one it leaves. The first samples of the pins are its operands; that they are all 0 in the reset state is the model's choice (log
entry 4). That what is on the link, the queue and the number of reads issued stay is the model's (log entries 5 and 9): they are its
own fields. -/
def Obligations.PowerOnReset : Prop :=
  (∀ (levels : BitVec 48) (sync : Level) (s : State), ∃ t, exec (.powerOnReset levels sync) s = .next t ∧
    t.pending = s.pending ∧ t.link = s.link ∧ t.reads = s.reads ∧ t.host = HostSide.cleared .powerOn ∧
    (∀ i, t.capture.line i =
      { config := { role := .off, invert := false, report := .both, debounce := 1000, chatterLimit := 0, chatterWindow := 1000,
                    quietTime := 5000, group := 0 }
        raw := levels.getLsbD i.val, qualifier := .off, chatter := .quiet, counter := 0, glitchCount := 0, transitionCount := 0,
        shedCount := 0, episodeCount := 0 }) ∧
    t.capture.timebase =
      { timeValue := 0, generation := 0, quality := .unset, acceptedRun := 0, rejectedRun := 0, lastAccepted := none,
        holdoverEntry := none, holdExpiry := none, syncEnable := false, activeEdge := .rising, tolerance := 1000,
        holdoverLimit := 600 } ∧
    t.capture.elapsed = 0 ∧ t.capture.syncLevel = sync ∧ t.capture.staging = [] ∧ t.capture.horizon = 500 ∧
    t.capture.highWater = 0 ∧ t.capture.sequence = 1 ∧
    (∀ g, t.capture.groups.get g = { cls := 0, ring := 0, enabled := true }) ∧
    (∀ n, t.capture.tallies.get n = { count := 0, classes := 0 }) ∧
    t.capture.archive = { bounds := none, entries := [] }) ∧
  exec (.powerOnReset 0 false) State.reset = .next State.reset

/-- The invariants hold in the machine right after reset. -/
def Obligations.InvariantsHoldAtReset : Prop :=
  LinesSound State.reset.capture ∧ HorizonSound State.reset.capture ∧ StagingSound State.reset.capture ∧
  StampsSound State.reset.capture ∧ TimebaseSound State.reset.capture ∧ ArchiveSound State.reset.capture ∧
  SessionSound State.reset.host ∧ ReadsSound State.reset

/-! ### Lines (Chapters 1 and 2) -/

/-- R4: a raw change of a line in OFF records the raw level and nothing else, and when the line leaves OFF its stable level is
taken from the raw level it then has. -/
def Obligations.RawChangeInOff : Prop :=
  (∀ (s : State) (i : LineNo) (raw : Level), (s.capture.line i).qualifier = .off →
    exec (.rawChange i raw) s =
      .next { s with capture := s.capture.setLine i { s.capture.line i with raw := raw } }) ∧
  (∀ (c : Capture) (i : LineNo) (cfg : LineConfig), (c.line i).config.role = .off → cfg.role ≠ .off →
    ((c.configureLine cfg i).line i).qualifier = .stable ((c.line i).raw != cfg.invert) ∧
    (c.configureLine cfg i).staging = c.staging)

/-- A raw change of a line in STABLE with a debounce above 0 starts a candidate, and a raw change of a line in CANDIDATE cancels
it and counts a glitch, up to FFFF_FFFFh, where the count stays (R5, R7, R10). -/
def Obligations.RawChangeStartsOrCancelsCandidate : Prop :=
  ∀ (s : State) (i : LineNo) (raw : Level), (s.capture.line i).raw ≠ raw →
    (∀ level, (s.capture.line i).qualifier = .stable level → 0 < (s.capture.line i).config.debounce →
      exec (.rawChange i raw) s =
        .next { s with capture := s.capture.setLine i { s.capture.line i with
          raw := raw
          qualifier := .candidate level (raw != (s.capture.line i).config.invert) s.capture.elapsed
            { generation := s.capture.timebase.generation
              timeValue := s.capture.timebase.timeValue
              quality := s.capture.timebase.quality } } }) ∧
    (∀ level target capture stamp, (s.capture.line i).qualifier = .candidate level target capture stamp →
      exec (.rawChange i raw) s =
        .next { s with capture := s.capture.setLine i { s.capture.line i with
          raw := raw
          qualifier := .stable level
          glitchCount := satInc (s.capture.line i).glitchCount } })

/-- A confirmed transition on an EVENT-role line that is not in an episode and does not start one: the line is in STABLE at the
target level, the transition is counted, the chatter monitor counts it, and an EDGE with the transition's own stamp and capture
instant is handed to the staging queue exactly where the report field selects the transition and the group is enabled. The counts of
the part saturate: an increment adds 1, and leaves FFFF_FFFFh as it is (R10, R86, R87). -/
def Obligations.ConfirmationReportsEdge : Prop :=
  (∀ n : BitVec 32, (satInc n).toNat = min (n.toNat + 1) 0xFFFFFFFF) ∧
  ∀ (s : State) (i : LineNo) (c : Instr) (l : Line) (target : Level) (capture : Nat) (stamp : Stamp) (x : Chatter),
    Confirms s i c l target capture stamp → l.config.role = .event → CountsTransition s.capture.elapsed l x →
    exec c s = .next { s with
      capture :=
        (s.capture.setLine i { l with
          qualifier := .stable target, chatter := x, transitionCount := satInc l.transitionCount }).handedWhen
        (Reported l.config.report target ∧ (s.capture.groups.get l.config.group).enabled = true)
        (lineRecordOf (s.capture.groups.get l.config.group) i l.config.group .edge target stamp capture 0) }

/-- The confirmed transition that reaches the chatter limit starts an episode: the quiet timer starts, the episode is counted, and a
CHATTER_ON with the transition's own stamp and the count that reached the limit is handed to the staging queue where the group is
enabled, whatever the report field selects; a confirmed transition within an episode restarts the quiet timer and makes no record
(R23, R24, R25). -/
def Obligations.ConfirmationInChatter : Prop :=
  ∀ (s : State) (i : LineNo) (c : Instr) (l : Line) (target : Level) (capture : Nat) (stamp : Stamp),
    Confirms s i c l target capture stamp → l.config.role = .event → l.config.chatterLimit ≠ 0 →
    (∀ count window, l.chatter = .counting count window → l.config.chatterLimit ≤ count + 1 →
      exec c s = .next { s with
        capture :=
          (s.capture.setLine i { l with
            qualifier := .stable target
            chatter := .chattering (s.capture.elapsed + l.config.quietTime * 1000)
            transitionCount := satInc l.transitionCount
            episodeCount := satInc l.episodeCount }).handedWhen
          ((s.capture.groups.get l.config.group).enabled = true)
          (lineRecordOf (s.capture.groups.get l.config.group) i l.config.group .chatterOn target stamp capture
            (BitVec.ofNat 64 (count + 1))) }) ∧
    (∀ quiet, l.chatter = .chattering quiet →
      exec c s = .next { s with
        capture :=
          s.capture.setLine i { l with
            qualifier := .stable target
            chatter := .chattering (s.capture.elapsed + l.config.quietTime * 1000)
            transitionCount := satInc l.transitionCount } })

/-- A confirmed transition on a COUNT-role line advances the counter where the report field selects it; a counter at FFFF_FFFFh
becomes 0, and a COUNT_WRAP stamped at the confirmation is handed to the staging queue where the group is enabled (R33, R34). -/
def Obligations.ConfirmationCounts : Prop :=
  ∀ (s : State) (i : LineNo) (c : Instr) (l : Line) (target : Level) (capture : Nat) (stamp : Stamp),
    Confirms s i c l target capture stamp → l.config.role = .count →
    exec c s = .next { s with
      capture :=
        (s.capture.setLine i { l with
          qualifier := .stable target
          transitionCount := satInc l.transitionCount
          counter :=
            if Reported l.config.report target then
              if l.counter = 0xFFFFFFFF#32 then 0 else BitVec.ofNat 32 (l.counter.toNat + 1)
            else l.counter }).handedWhen
        (Reported l.config.report target ∧ l.counter = 0xFFFFFFFF#32 ∧
          (s.capture.groups.get l.config.group).enabled = true)
        (lineRecordOf (s.capture.groups.get l.config.group) i l.config.group .countWrap target
          { generation := s.capture.timebase.generation
            timeValue := s.capture.timebase.timeValue
            quality := s.capture.timebase.quality } s.capture.elapsed 0) }

/-- R26: the expiry of the window timer of a line in COUNTING leaves the line in QUIET and makes no record, and the next confirmed
transition opens a new window. -/
def Obligations.WindowExpiryClosesWindow : Prop :=
  ∀ (s : State) (i : LineNo) (count window : Nat), (s.capture.line i).chatter = .counting count window →
    window ≤ s.capture.elapsed →
    exec (.windowTimerExpiry i) s =
      .next { s with capture := s.capture.setLine i { s.capture.line i with chatter := .quiet } } ∧
    ∀ later : Nat, (s.capture.line i).config.role = .event → (s.capture.line i).config.chatterLimit ≠ 0 →
      chatterMonitor later { s.capture.line i with chatter := .quiet } =
        ({ s.capture.line i with chatter := .counting 1 (later + (s.capture.line i).config.chatterWindow * 1000) },
          .reportEdge)

/-- The expiry of the quiet timer of a line in CHATTERING leaves the line in QUIET, and a CHATTER_OFF with the line's stable level
and stamped at the expiry is handed to the staging queue where the group is enabled (R27). -/
def Obligations.QuietExpiryEndsEpisode : Prop :=
  ∀ (s : State) (i : LineNo) (quiet : Nat), (s.capture.line i).chatter = .chattering quiet → quiet ≤ s.capture.elapsed →
    exec (.quietTimerExpiry i) s = .next { s with
      capture :=
        (s.capture.setLine i { s.capture.line i with chatter := .quiet }).handedWhen
        ((s.capture.groups.get (s.capture.line i).config.group).enabled = true)
        (lineRecordOf (s.capture.groups.get (s.capture.line i).config.group) i (s.capture.line i).config.group .chatterOff
          (s.capture.line i).qualifier.level
          { generation := s.capture.timebase.generation
            timeValue := s.capture.timebase.timeValue
            quality := s.capture.timebase.quality } s.capture.elapsed 0) }

/-- An expiry that finds no timer of its own running, or one that runs out later, a release step that is not due, and a change of
SYNC that is no pulse to be evaluated leave everything else as it is, and so do a completion, good or bad, of a command read or a
block read that is not in flight or is late, as of every abandoned read, a timeout of a read, a due write or the fault message that has
not come, an issue with nothing due or past its 50 ms, a REPLAY_READ, REPLAY_GRANT or VERIFY_READ without a REPLAY that waits to read,
a held copy, or a VERIFY_ARCHIVE that runs, and a sample of a line that equals the one before it (R2, R8, R20, R28, R29, R44, R50, R66,
R99, R127, R128, R129, R154, R161, R163, R174). That a completion says which read it
answers is the model's (log entry 9). That a command presented without its condition has no effect is the model's (log entry 6). -/
def Obligations.EventsThatFindNoCauseHaveNoEffect : Prop :=
  (∀ (s : State) (i : LineNo),
    (∀ level target capture stamp, (s.capture.line i).qualifier = .candidate level target capture stamp →
      s.capture.elapsed < capture + (s.capture.line i).config.debounce) →
    exec (.debounceExpiry i) s = .next s) ∧
  (∀ (s : State) (i : LineNo),
    (∀ count window, (s.capture.line i).chatter = .counting count window → s.capture.elapsed < window) →
    exec (.windowTimerExpiry i) s = .next s) ∧
  (∀ (s : State) (i : LineNo),
    (∀ quiet, (s.capture.line i).chatter = .chattering quiet → s.capture.elapsed < quiet) →
    exec (.quietTimerExpiry i) s = .next s) ∧
  (∀ s : State, (∀ x, s.capture.timebase.holdExpiry = some x → s.capture.elapsed < x) → exec .holdExpiry s = .next s) ∧
  (∀ s : State,
    (s.capture.timebase.quality = .locked → ∀ x, s.capture.timebase.lastAccepted = some x →
      s.capture.elapsed < x + 2500000) →
    exec .lossExpiry s = .next s) ∧
  (∀ s : State,
    (s.capture.timebase.quality = .holdover → ∀ x, s.capture.timebase.holdoverEntry = some x →
      s.capture.elapsed < x + s.capture.timebase.holdoverLimit * 1000000) →
    exec .holdoverExpiry s = .next s) ∧
  (∀ (s : State) (n : RingNo),
    ((∀ e, s.capture.staging.find? (fun e => decide (e.ring = n)) = some e →
        s.capture.elapsed < e.capture + s.capture.horizon) ∨
      ∃ r, s.attachedRing n = some r ∧ r.size - 1 ≤ r.occupied) →
    exec (.releaseStep n) s = .next s) ∧
  (∀ (s : State) (v : VectorNo),
    (∀ h, s.host.session = .attached h → ∀ x, (h.vectors.get v).timer = some x → s.capture.elapsed < x) →
    exec (.coalescingTimerExpiry v) s = .next s) ∧
  (∀ (s : State) (level : Level), ¬ SyncPulseAt s.capture level →
    exec (.syncPulse level) s = .next { s with capture := { s.capture with syncLevel := level } }) ∧
  (∀ (s : State) (c : Instr) (read : Nat), ((commandHeader c).isSome = true ∨ ∃ kind tag, c = .badKind kind ⟨read, tag⟩) →
    c.answeredRead = some read → (∀ h, ¬ ReadInFlight s read h) → exec c s = .next s) ∧
  (∀ (s : State) (read : Nat), (∀ h, ¬ ReadInFlight s read h) → exec (.readBusError (.badCompletion read)) s = .next s) ∧
  (∀ s : State, (∀ h address dueAt number, s.host.session = .attached h → h.command = .reading address dueAt number →
      s.capture.elapsed < dueAt + 50000) →
    exec (.readBusError .timeout) s = .next s) ∧
  (∀ (s : State) (i : LineNo), exec (.rawChange i (s.capture.line i).raw) s = .next s) ∧
  (∀ (s : State) (read : Nat) (b : InitBlock),
    (∀ address dueAt, s.host.session = .attaching address dueAt read → dueAt + 50000 < s.capture.elapsed) →
    exec (.blockReadComplete ⟨read, b⟩) s = .next s ∧ exec (.initBusError (.badCompletion read)) s = .next s) ∧
  (∀ s : State, (∀ address dueAt number, s.host.session = .attaching address dueAt number → s.capture.elapsed < dueAt + 50000) →
    exec (.initBusError .timeout) s = .next s) ∧
  (∀ s : State, (∀ h w rest, s.host.session = .attached h → h.due = w :: rest → s.capture.elapsed < w.dueAt + 50000) →
    exec .writeBusError s = .next s) ∧
  (∀ s : State, (∀ w, s.host.session = .faulted (some w) → s.capture.elapsed < w.dueAt + 50000) →
    exec .faultNotifyFailed s = .next s) ∧
  (∀ s : State, (∀ h w rest, s.host.session = .attached h → h.due = w :: rest → w.dueAt + 50000 < s.capture.elapsed) →
    (∀ w, s.host.session = .faulted (some w) → w.dueAt + 50000 < s.capture.elapsed) →
    exec .memoryWriteIssue s = .next s) ∧
  (∀ s : State, (∀ h x n, s.host.session = .attached h → h.archiveEngine ≠ .replaying x n none) →
    exec .replayRead s = .next s) ∧
  (∀ s : State, (∀ h x n copy, s.host.session = .attached h → h.archiveEngine = .replaying x n (some copy) →
      h.eventRings.get n = none) →
    exec .replayGrant s = .next s) ∧
  (∀ s : State, (∀ h x crc, s.host.session = .attached h → h.archiveEngine ≠ .verifying x crc) →
    exec .verifyRead s = .next s)

/-- An accepted CONFIGURE_LINES, in a state with sound lines: the masked lines are reconfigured one after another in ascending line
order, so that the records they make are handed over in that order (R15), each as ReconfigurationClosesEpisode says; every masked
line takes the new configuration and its qualifier state and statistics are those of R16 to R18; every other line is as it was but for
its shed count; the horizon is that of R19, and the completion reports it. -/
def Obligations.ConfigureLinesAccepted : Prop :=
  ∀ (s : State) (h : Attached) (read : Nat) (tag : BitVec 16) (p : LineParams) (cfg : LineConfig), ReadInFlight s read h →
    Accepted (.configureLines ⟨read, tag⟩ p) → LinesSound s.capture →
    cfg =
      { role := if p.role = 0 then .off else if p.role = 1 then .event else .count
        invert := decide (p.invert = 1)
        report := if p.report = 0 then .none else if p.report = 1 then .rising else if p.report = 2 then .falling else .both
        debounce := p.debounce.toNat
        chatterLimit := p.chatterLimit.toNat
        chatterWindow := p.chatterWindow.toNat
        quietTime := p.quietTime.toNat
        group := Fin.ofNat 8 p.group.toNat } →
    ∃ t, exec (.configureLines ⟨read, tag⟩ p) s = .next t ∧
      t = { s with
        capture := { ((List.finRange 48).filter (fun i => p.lineMask.getLsbD i.val)).foldl
          (fun c i => c.configureLine cfg i) s.capture with horizon := t.capture.horizon }
        host := { s.host with session := .attached (h.answered s.capture.elapsed 0x01 tag 0x00 0
          (bytesOf 4 (BitVec.ofNat 32 t.capture.horizon) ++ zeros 20)) } } ∧
      t.capture = { s.capture with
        lines := t.capture.lines, staging := t.capture.staging, highWater := t.capture.highWater,
        tallies := t.capture.tallies, horizon := t.capture.horizon } ∧
      IsHorizon t.capture ∧
      (∀ i : LineNo, p.lineMask.getLsbD i.val = false → SameButShedCount (s.capture.line i) (t.capture.line i)) ∧
      (∀ i : LineNo, p.lineMask.getLsbD i.val = true →
        (t.capture.line i).config = cfg ∧
        (t.capture.line i).raw = (s.capture.line i).raw ∧
        (t.capture.line i).glitchCount = (s.capture.line i).glitchCount ∧
        (t.capture.line i).episodeCount = (s.capture.line i).episodeCount ∧
        (p.role = 0 → (t.capture.line i).qualifier = .off ∧ (t.capture.line i).chatter = .quiet ∧
          (t.capture.line i).counter = 0 ∧ (t.capture.line i).transitionCount = (s.capture.line i).transitionCount) ∧
        (p.role ≠ 0 → (s.capture.line i).qualifier.moment = none →
          (t.capture.line i).qualifier = .stable ((s.capture.line i).raw != decide (p.invert = 1)) ∧
          (t.capture.line i).chatter = .quiet ∧
          (t.capture.line i).transitionCount = (s.capture.line i).transitionCount ∧
          (t.capture.line i).counter =
            if (s.capture.line i).config.role = .count ∧ p.role = 2 then (s.capture.line i).counter else 0) ∧
        (p.role ≠ 0 → (s.capture.line i).qualifier.moment ≠ none → p.debounce ≠ 0 →
          (t.capture.line i).qualifier =
            .candidate (!((s.capture.line i).raw != decide (p.invert = 1))) ((s.capture.line i).raw != decide (p.invert = 1))
              s.capture.elapsed s.capture.stamp ∧
          (t.capture.line i).chatter = .quiet ∧
          (t.capture.line i).transitionCount = (s.capture.line i).transitionCount ∧
          (t.capture.line i).counter =
            if (s.capture.line i).config.role = .count ∧ p.role = 2 then (s.capture.line i).counter else 0) ∧
        (p.role ≠ 0 → (s.capture.line i).qualifier.moment ≠ none → p.debounce = 0 →
          (t.capture.line i).qualifier = .stable ((s.capture.line i).raw != decide (p.invert = 1)) ∧
          (t.capture.line i).transitionCount = satInc (s.capture.line i).transitionCount ∧
          (t.capture.line i).chatter =
            (if p.role = 1 ∧ p.chatterLimit ≠ 0 then .counting 1 (s.capture.elapsed + p.chatterWindow.toNat * 1000)
            else .quiet) ∧
          ∀ kept : BitVec 32,
            kept = (if (s.capture.line i).config.role = .count ∧ p.role = 2 then (s.capture.line i).counter else 0) →
            (t.capture.line i).counter =
              if p.role = 2 ∧ (p.report = 3 ∨
                  (p.report = 1 ∧ ((s.capture.line i).raw != decide (p.invert = 1)) = true) ∨
                  (p.report = 2 ∧ ((s.capture.line i).raw != decide (p.invert = 1)) = false)) then
                (if kept = 0xFFFFFFFF#32 then 0 else BitVec.ofNat 32 (kept.toNat + 1))
              else kept))

/-- What reconfiguring one line does. Where the line was in EVENT role, in CHATTERING and in an enabled group, a CHATTER_OFF under the
old configuration with the old stable level is handed to the staging queue first. Then, where no candidate is confirmed at once,
nothing else is, and the line takes the new configuration at rest in its chatter state, with its candidate restarted where it had
one. Where it had one and the new debounce is 0, the transition is confirmed under the new configuration, with this instant as its
capture instant: in EVENT role it opens a chatter window where detection is in force and is reported as an EDGE, and in COUNT role it
reaches the counter and may wrap it, where the new report field selects it (R9, R16, R17, R18, R22, R33, R34). -/
def Obligations.ReconfigurationClosesEpisode : Prop :=
  ∀ (c c1 : Capture) (i : LineNo) (cfg : LineConfig) (target : Level) (kept : BitVec 32) (closes : Bool), (c.line i).Sound →
    (closes = true ↔
      (∃ quiet, (c.line i).chatter = .chattering quiet) ∧ (c.groups.get (c.line i).config.group).enabled = true) →
    c1 = c.handedWhen (closes = true)
      (lineRecordOf (c.groups.get (c.line i).config.group) i (c.line i).config.group .chatterOff (c.line i).qualifier.level
        c.stamp c.elapsed 0) →
    target = ((c.line i).raw != cfg.invert) →
    kept = (if (c.line i).config.role = cfg.role then (c.line i).counter else 0) →
    (((c.line i).qualifier.moment = none ∨ cfg.debounce ≠ 0 ∨ cfg.role = .off) →
      c.configureLine cfg i =
        c1.setLine i { c1.line i with
          config := cfg
          chatter := .quiet
          qualifier :=
            if cfg.role = .off then .off
            else if (c.line i).qualifier.moment = none then .stable target
            else .candidate (!target) target c.elapsed c.stamp
          counter := kept }) ∧
    ((c.line i).qualifier.moment ≠ none → cfg.debounce = 0 → cfg.role = .event →
      c.configureLine cfg i =
        (c1.setLine i { c1.line i with
          config := cfg
          chatter := if cfg.chatterLimit = 0 then .quiet else .counting 1 (c.elapsed + cfg.chatterWindow * 1000)
          qualifier := .stable target
          transitionCount := satInc (c.line i).transitionCount
          counter := kept }).handedWhen
        (Reported cfg.report target ∧ (c.groups.get cfg.group).enabled = true)
        (lineRecordOf (c.groups.get cfg.group) i cfg.group .edge target c.stamp c.elapsed 0)) ∧
    ((c.line i).qualifier.moment ≠ none → cfg.debounce = 0 → cfg.role = .count →
      c.configureLine cfg i =
        (c1.setLine i { c1.line i with
          config := cfg
          chatter := .quiet
          qualifier := .stable target
          transitionCount := satInc (c.line i).transitionCount
          counter :=
            if Reported cfg.report target then
              if kept = 0xFFFFFFFF#32 then 0 else BitVec.ofNat 32 (kept.toNat + 1)
            else kept }).handedWhen
        (Reported cfg.report target ∧ kept = 0xFFFFFFFF#32 ∧ (c.groups.get cfg.group).enabled = true)
        (lineRecordOf (c.groups.get cfg.group) i cfg.group .countWrap target c.stamp c.elapsed 0))

/-! ### The timebase (Chapter 3) -/

/-- A sync pulse to be evaluated, with the offset `e` of the time value from the pulse mark. No greater than the tolerance, it is
accepted: the time value steps forward by `e` when it is behind, a hold of `e` begins when it is ahead, and the runs, the last
accepted pulse, the quality and the holdover entry become what R45 says. Above the tolerance, it is rejected: no correction is made,
a running hold has ended, the rejected run rises and the accepted run becomes 0, and LOCKED becomes HOLDOVER when the rejected run
has reached 3 (R45, R46, R47). -/
def Obligations.SyncPulseEvaluated : Prop :=
  ∀ (s : State) (level : Level) (sub e : Nat), SyncPulseAt s.capture level →
    sub = s.capture.timebase.timeValue % 1000000 → e = (if 500000 ≤ sub then 1000000 - sub else sub) →
    (e ≤ s.capture.timebase.tolerance →
      exec (.syncPulse level) s = .next { s with
        capture := { s.capture with
          syncLevel := level
          timebase := { s.capture.timebase with
            timeValue :=
              if 500000 ≤ sub then s.capture.timebase.timeValue + e else s.capture.timebase.timeValue
            holdExpiry := if 1 ≤ sub ∧ sub ≤ 499999 then some (s.capture.elapsed + e) else none
            acceptedRun := satInc s.capture.timebase.acceptedRun
            rejectedRun := 0
            lastAccepted := some s.capture.elapsed
            quality :=
              if s.capture.timebase.quality = .free ∧ (satInc s.capture.timebase.acceptedRun).toNat < 4 then .free
              else .locked
            holdoverEntry :=
              if s.capture.timebase.quality = .holdover then none else s.capture.timebase.holdoverEntry } } }) ∧
    (s.capture.timebase.tolerance < e →
      exec (.syncPulse level) s = .next { s with
        capture := { s.capture with
          syncLevel := level
          timebase := { s.capture.timebase with
            holdExpiry := none
            rejectedRun := satInc s.capture.timebase.rejectedRun
            acceptedRun := 0
            quality :=
              if s.capture.timebase.quality = .locked ∧ 3 ≤ (satInc s.capture.timebase.rejectedRun).toNat then .holdover
              else s.capture.timebase.quality
            holdoverEntry :=
              if s.capture.timebase.quality = .locked ∧ 3 ≤ (satInc s.capture.timebase.rejectedRun).toNat then
                some s.capture.elapsed
              else s.capture.timebase.holdoverEntry } } })

/-- The hold expiry ends the hold and moves nothing else; the loss expiry takes LOCKED to HOLDOVER from the last accepted pulse; the
holdover expiry takes HOLDOVER to FREE from the holdover entry and the limit now configured (R46, R48, R49). -/
def Obligations.TimebaseExpiries : Prop :=
  (∀ (s : State) (x : Nat), s.capture.timebase.holdExpiry = some x → x ≤ s.capture.elapsed →
    exec .holdExpiry s = .next { s with
      capture := { s.capture with timebase := { s.capture.timebase with holdExpiry := none } } }) ∧
  (∀ (s : State) (x : Nat), s.capture.timebase.quality = .locked → s.capture.timebase.lastAccepted = some x →
    x + 2500000 ≤ s.capture.elapsed →
    exec .lossExpiry s = .next { s with
      capture := { s.capture with
        timebase := { s.capture.timebase with
          quality := .holdover, holdoverEntry := some s.capture.elapsed, acceptedRun := 0 } } }) ∧
  (∀ (s : State) (x : Nat), s.capture.timebase.quality = .holdover → s.capture.timebase.holdoverEntry = some x →
    x + s.capture.timebase.holdoverLimit * 1000000 ≤ s.capture.elapsed →
    exec .holdoverExpiry s = .next { s with
      capture := { s.capture with
        timebase := { s.capture.timebase with
          quality := .free, holdoverEntry := none, acceptedRun := 0, rejectedRun := 0 } } })

/-- An accepted CONFIGURE_TIMEBASE stores its four fields; a disabling of sync clears the runs, the last accepted pulse and the
holdover and leaves LOCKED and HOLDOVER at FREE; with sync kept enabled a holdover whose new limit has run out ends at once; the
completion reports the quality that is left (R51, R137). -/
def Obligations.ConfigureTimebaseAccepted : Prop :=
  ∀ (s : State) (h : Attached) (read : Nat) (tag : BitVec 16) (enable edge : Byte) (tolerance limit : BitVec 32), ReadInFlight s read h →
    Accepted (.configureTimebase ⟨read, tag⟩ enable edge tolerance limit) →
    ∃ t, exec (.configureTimebase ⟨read, tag⟩ enable edge tolerance limit) s = .next t ∧
      t = { s with
        capture := { s.capture with timebase := t.capture.timebase }
        host := { s.host with session := .attached (h.answered s.capture.elapsed 0x03 tag 0x00 0
          ([BitVec.ofNat 8 (qualityNumber t.capture.timebase.quality)] ++ zeros 23)) } } ∧
      t.capture.timebase =
        (let stored := { s.capture.timebase with
          syncEnable := decide (enable = 1)
          activeEdge := if edge = 0 then .rising else .falling
          tolerance := tolerance.toNat
          holdoverLimit := limit.toNat }
        if s.capture.timebase.syncEnable = true ∧ enable = 0 then
          { stored with
            acceptedRun := 0
            rejectedRun := 0
            lastAccepted := none
            holdoverEntry := none
            quality := if s.capture.timebase.quality = .unset then .unset else .free }
        else if s.capture.timebase.syncEnable = true ∧ s.capture.timebase.quality = .holdover ∧
            s.capture.timebase.holdoverEntry.any (fun x => decide (x + limit.toNat * 1000000 ≤ s.capture.elapsed)) = true then
          { stored with quality := .free, holdoverEntry := none, acceptedRun := 0, rejectedRun := 0 }
        else stored)

/-- R52: a SET_TIME whose fields are in range is refused with GENERATION_EXHAUSTED when the generation holds FFFF_FFFFh, otherwise
with STAGING_FULL when the staging queue holds 512 entries, and then changes nothing but what its completion takes; with any free
entry it is not refused. -/
def Obligations.SetTimeRefused : Prop :=
  ∀ (s : State) (h : Attached) (read : Nat) (tag : BitVec 16) (value : BitVec 64), ReadInFlight s read h → Accepted (.setTime ⟨read, tag⟩ value) →
    (s.capture.timebase.generation = 0xFFFFFFFF#32 →
      exec (.setTime ⟨read, tag⟩ value) s =
        .next (s.withHost (h.answered s.capture.elapsed 0x04 tag 0x06 0 (zeros 24)))) ∧
    (s.capture.timebase.generation ≠ 0xFFFFFFFF#32 → s.capture.staging.length = 512 →
      exec (.setTime ⟨read, tag⟩ value) s =
        .next (s.withHost (h.answered s.capture.elapsed 0x04 tag 0x05 0 (zeros 24)))) ∧
    (s.capture.timebase.generation ≠ 0xFFFFFFFF#32 → s.capture.staging.length < 512 →
      ∃ t, exec (.setTime ⟨read, tag⟩ value) s = .next t ∧ t.capture.timebase.generation = s.capture.timebase.generation + 1 ∧
        t.host.session = .attached (h.answered s.capture.elapsed 0x04 tag 0x00 0
          (bytesOf 4 (s.capture.timebase.generation + 1) ++ zeros 20)))

/-- An accepted SET_TIME starts the next generation at the commanded value with quality FREE, ends a hold, clears the runs, the last
accepted pulse and the holdover entry, re-stamps every candidate, stages the TIME_STEP with the previous value, and completes with
the new generation (R53, R54, R55, R138). -/
def Obligations.SetTimeAccepted : Prop :=
  ∀ (s : State) (h : Attached) (read : Nat) (tag : BitVec 16) (value : BitVec 64), ReadInFlight s read h → Accepted (.setTime ⟨read, tag⟩ value) →
    s.capture.timebase.generation ≠ 0xFFFFFFFF#32 → s.capture.staging.length < 512 →
    ∃ t, exec (.setTime ⟨read, tag⟩ value) s = .next t ∧
      t = { s with
        capture := { s.capture with
          timebase := { s.capture.timebase with
            generation := s.capture.timebase.generation + 1
            timeValue := value.toNat
            holdExpiry := none
            quality := .free
            acceptedRun := 0
            rejectedRun := 0
            lastAccepted := none
            holdoverEntry := none }
          lines := t.capture.lines
          staging := insertByKey
            { kind := .timeStep, line := none, level := false, group := 0
              stamp := { generation := s.capture.timebase.generation + 1, timeValue := value.toNat, quality := .free }
              capture := s.capture.elapsed, payload := word64 s.capture.timebase.timeValue, cls := none
              ring := h.systemRing } s.capture.staging
          highWater := max s.capture.highWater (s.capture.staging.length + 1) }
        host := { s.host with session := .attached (h.answered s.capture.elapsed 0x04 tag 0x00 0
          (bytesOf 4 (s.capture.timebase.generation + 1) ++ zeros 20)) } } ∧
      ∀ i, t.capture.line i =
        { s.capture.line i with
          qualifier :=
            match (s.capture.line i).qualifier with
            | .candidate level target _ _ => .candidate level target s.capture.elapsed
                { generation := s.capture.timebase.generation + 1, timeValue := value.toNat, quality := .free }
            | .stable level => .stable level
            | .off => .off }

/-- An accepted GET_TIME reports the time value, the generation, the accepted run, what remains of a hold and the quality, and
changes nothing but what its completion takes (R139). A 64-bit field holds the count itself, as it does in every record, buffer and
completion (R178); what it holds of a count of 2^64 or more is left free (log entry 2). -/
def Obligations.GetTimeReports : Prop :=
  (∀ n : Nat, n < 2 ^ 64 → (word64 n).toNat = n) ∧
  ∀ (s : State) (h : Attached) (read : Nat) (tag : BitVec 16), ReadInFlight s read h → Accepted (.getTime ⟨read, tag⟩) →
    exec (.getTime ⟨read, tag⟩) s =
      .next (s.withHost (h.answered s.capture.elapsed 0x05 tag 0x00 0
        (bytesOf 8 (word64 s.capture.timebase.timeValue) ++ bytesOf 4 s.capture.timebase.generation ++
          bytesOf 4 s.capture.timebase.acceptedRun ++
          bytesOf 4 (match s.capture.timebase.holdExpiry with
            | some x => BitVec.ofNat 32 (x - s.capture.elapsed)
            | none => 0) ++
          [BitVec.ofNat 8 (qualityNumber s.capture.timebase.quality)] ++ zeros 3)))

/-! ### The staging queue, shedding and release (Chapters 4 and 5) -/

/-- A record handed to a staging queue that has room for it is inserted after every held record of no greater release key and before
every one of greater key, and the high-water mark follows the number of entries (R59, R60, R61, R62). A line record is an entry of a
class 0 to 3, a TIME_STEP having none, and the line records held are counted so (R58, R60). -/
def Obligations.StagingInsertsInKeyOrder : Prop :=
  (∀ e : Entry, e.isLineRecord = true ↔ ∃ k, e.cls = some k) ∧
  (∀ q : List Entry, lineRecords q = q.countP fun e => decide (e.cls ≠ none)) ∧
  ∀ (c : Capture) (e : Entry), StagingSound c →
    c.staging.length < 512 → (e.isLineRecord = true → lineRecords c.staging < 504) →
    ∃ before after, c.staging = before ++ after ∧
      (∀ x ∈ before, x.releaseKey ≤ e.releaseKey) ∧ (∀ x ∈ after, e.releaseKey < x.releaseKey) ∧
      c.stage e =
        ({ c with staging := before ++ e :: after, highWater := max c.highWater (c.staging.length + 1) }, true)

/-- A line record handed to a staging queue that is full for it: where a held line record has a lower class, the one with the
greatest key of the lowest class, and among equal keys the one inserted last, is evicted and the new record inserted; otherwise the
new record is discarded. The shed record is counted in its ring's tally and in its line's shed count (R83 to R87). The
number of entries held stays, and so does the high-water mark; that it stays too where a clear has left it below that number is the
model's reading of R62 and R83 (log entry 7). -/
def Obligations.FullStagingSheds : Prop :=
  ∀ (c : Capture) (e : Entry) (k : ClassNo), StagingSound c → e.cls = some k →
    (lineRecords c.staging = 504 ∨ c.staging.length = 512) →
    ∃ shed : Entry, ∃ held : Bool,
      (held = true ↔ ∃ x ∈ c.staging, ∃ m, x.cls = some m ∧ m < k) ∧
      (held = false → shed = e ∧ (c.stage e).1.staging = c.staging) ∧
      (held = true → ∃ before after low, c.staging = before ++ shed :: after ∧ shed.cls = some low ∧
        (∀ x ∈ c.staging, ∀ m, x.cls = some m → low ≤ m) ∧
        (∀ x ∈ before, x.cls = some low → x.releaseKey ≤ shed.releaseKey) ∧ (∀ x ∈ after, x.cls ≠ some low) ∧
        (c.stage e).1.staging = insertByKey e (before ++ after)) ∧
      c.stage e =
        ({ c with
            staging := (c.stage e).1.staging
            tallies := (c.stage e).1.tallies
            lines := (c.stage e).1.lines }, held) ∧
      (c.stage e).1.highWater = c.highWater ∧
      (c.stage e).1.staging.length = c.staging.length ∧
      (∀ n, (c.stage e).1.tallies.get n =
        if n = shed.ring then
          { count := satInc (c.tallies.get n).count
            classes := (c.tallies.get n).classes ||| (1#4 <<< (shed.cls.getD 0).val) }
        else c.tallies.get n) ∧
      (∀ i, (c.stage e).1.line i =
        if shed.line = some i then { c.line i with shedCount := satInc (c.line i).shedCount } else c.line i)

/-- ENTRY_ELIGIBLE moves no state (the model's reading, log entry 10): an entry is eligible when the elapsed count since its capture instant has reached the horizon
now in force, and in a sound state every held entry of lower key is eligible before it (R63, R64). -/
def Obligations.EligibleEntriesComeFirst : Prop :=
  (∀ (s : State) (n : RingNo), exec (.entryEligible n) s = .next s) ∧
  (∀ (c : Capture) (before mid after : List Entry) (x y : Entry), StagingSound c → StampsSound c →
    c.staging = before ++ x :: mid ++ y :: after → c.horizon ≤ c.elapsed - y.capture →
    c.eligible y = true ∧ c.eligible x = true)

/-- A release step for a ring whose tally is zero: the first entry targeted at it, where it is eligible and the ring can take a
record, leaves the queue, takes the next sequence number, is appended to the archive in the form of R95 and R178, and, where the ring
is attached, claims a slot and its memory write becomes due with the ring's phase (R67, R68, R69, R71, R124). -/
def Obligations.ReleaseStepReleasesEntry : Prop :=
  ∀ (s : State) (n : RingNo) (before after : List Entry) (e : Entry),
    s.capture.staging = before ++ e :: after → (∀ x ∈ before, x.ring ≠ n) → e.ring = n →
    e.capture + s.capture.horizon ≤ s.capture.elapsed → (s.capture.tallies.get n).count = 0 →
    (∀ r, s.attachedRing n = some r → r.occupied < r.size - 1) →
    ∃ record : Record32,
      (∀ phase, bytesOf 32 (withFlags phase false false record) =
        recordBytes (kindByte e.kind) (liveFlags e.stamp.quality phase) (lineByte e.line)
          (BitVec.ofNat 8 (2 * e.group.val + e.level.toNat)) e.stamp.generation (word64 s.capture.sequence)
          (word64 e.stamp.timeValue) e.payload) ∧
      withFlags false false false record = record ∧
      exec (.releaseStep n) s = .next { s with
        capture := { s.capture with
          staging := before ++ after
          sequence := s.capture.sequence + 1
          archive := s.capture.archive.append s.capture.sequence record }
        host := { s.host with
          session :=
            match s.host.session with
            | .attached h =>
              match h.eventRings.get n with
              | some r => .attached (h.ringWritten n r s.capture.elapsed (bytesOf 32 (withFlags r.phase false false record)))
              | none => .attached h
            | other => other } }

/-- A release step for a ring whose tally is not zero releases a GAP with the tally's count and classes and the stamp of the first
entry, which stays held; the tally becomes zero (R67, R89). -/
def Obligations.ReleaseStepReleasesGap : Prop :=
  ∀ (s : State) (n : RingNo) (before after : List Entry) (e : Entry),
    s.capture.staging = before ++ e :: after → (∀ x ∈ before, x.ring ≠ n) → e.ring = n →
    e.capture + s.capture.horizon ≤ s.capture.elapsed → (s.capture.tallies.get n).count ≠ 0 →
    (∀ r, s.attachedRing n = some r → r.occupied < r.size - 1) →
    ∃ record : Record32,
      (∀ phase, bytesOf 32 (withFlags phase false false record) =
        recordBytes 0x08 (liveFlags e.stamp.quality phase) 0xFF 0 e.stamp.generation (word64 s.capture.sequence)
          (word64 e.stamp.timeValue)
          (BitVec.ofNat 64 ((s.capture.tallies.get n).count.toNat + 2 ^ 32 * (s.capture.tallies.get n).classes.toNat))) ∧
      withFlags false false false record = record ∧
      exec (.releaseStep n) s = .next { s with
        capture := { s.capture with
          tallies := s.capture.tallies.set n.val { count := 0, classes := 0 }
          sequence := s.capture.sequence + 1
          archive := s.capture.archive.append s.capture.sequence record }
        host := { s.host with
          session :=
            match s.host.session with
            | .attached h =>
              match h.eventRings.get n with
              | some r => .attached (h.ringWritten n r s.capture.elapsed (bytesOf 32 (withFlags r.phase false false record)))
              | none => .attached h
            | other => other } }

/-- The laws of the counters, over any step but a power-on reset. Either the generation stays and the time value does not decrease, or
the command is a SET_TIME, the generation rises by one and the value is the one commanded (R40). From a sound archive, either the
sequence counter stays and so do the archive's bounds, or it rises by one and the record numbered is the archive's newest entry,
whose check passes (R68, R94, R96, R98). -/
def Obligations.CountersLaw : Prop :=
  ∀ (s t : State), step s = .next t → (∀ levels sync, s.pending.head? ≠ some (.powerOnReset levels sync)) →
    ((t.capture.timebase.generation = s.capture.timebase.generation ∧
      s.capture.timebase.timeValue ≤ t.capture.timebase.timeValue) ∨
    (∃ read tag value, s.pending.head? = some (.setTime ⟨read, tag⟩ value) ∧
      t.capture.timebase.generation.toNat = s.capture.timebase.generation.toNat + 1 ∧
      t.capture.timebase.timeValue = value.toNat ∧ t.capture.timebase.quality = .free)) ∧
    (ArchiveSound s.capture →
      (t.capture.sequence = s.capture.sequence ∧ t.capture.archive.bounds = s.capture.archive.bounds) ∨
      (t.capture.sequence = s.capture.sequence + 1 ∧
        ∃ e, t.capture.archive.find s.capture.sequence = some e ∧ e.mismatch = false ∧
          t.capture.archive.newest = s.capture.sequence))

/-! ### The event archive (Chapter 6) -/

/-- An append to a sound archive stores the record with its check code under the new number, keeps every other entry but the oldest
of a full archive, which is removed, and moves the bounds so (R94, R96). The check code is the CRC-16 of the 32 stored bytes: a
register that starts at FFFFh, takes each byte at its high end and is shifted left under 1021h, which gives 29B1h over "123456789"
(R95). -/
def Obligations.ArchiveAppendKeepsEntries : Prop :=
  (∀ bytes : List Byte, crc16 bytes =
    bytes.foldl
      (fun (r : BitVec 16) b => (List.range 8).foldl
        (fun (x : BitVec 16) _ => if x.getLsbD 15 then (x <<< 1) ^^^ 0x1021#16 else x <<< 1)
        (r ^^^ (b.setWidth 16 : BitVec 16) <<< (8 : Nat)))
      0xFFFF#16) ∧
  crc16 [0x31, 0x32, 0x33, 0x34, 0x35, 0x36, 0x37, 0x38, 0x39] = 0x29B1 ∧
  (∀ record : Record32, checkCode record = crc16 (bytesOf 32 record)) ∧
  ∀ (c : Capture) (record : Record32), ArchiveSound c →
    (c.archive.append c.sequence record).find c.sequence = some { record := record, code := checkCode record } ∧
    (∀ q, q ≠ c.sequence → (c.archive.append c.sequence record).find q =
      if c.archive.entries.length = 16384 ∧ q = c.sequence - 16384 then none else c.archive.find q) ∧
    (c.archive.append c.sequence record).newest = c.sequence ∧
    (c.archive.append c.sequence record).oldest =
      (if c.archive.entries = [] then c.sequence
      else if c.archive.entries.length = 16384 then c.archive.oldest + 1 else c.archive.oldest) ∧
    (c.archive.append c.sequence record).entries.length ≤ 16384

/-- A retention disturbance replaces the stored content of a held entry and changes nothing else (R98). That one which names no held
entry has no effect is the model's (log entry 6). -/
def Obligations.RetentionDisturbanceChangesOneEntry : Prop :=
  ∀ (s : State) (q : Nat) (record : Record32) (code : BitVec 16),
    ∃ t, exec (.retentionDisturbance q record code) s = .next t ∧
      t = { s with capture := { s.capture with archive := { s.capture.archive with entries := t.capture.archive.entries } } } ∧
      ((s.capture.archive.find q).isSome = true →
        t.capture.archive.find q = some { record := record, code := code } ∧
        ∀ p, p ≠ q → t.capture.archive.find p = s.capture.archive.find p) ∧
      (s.capture.archive.bounds = none → t = s) ∧
      (∀ b, s.capture.archive.bounds = some b → (q < b.oldest ∨ b.newest < q) → t = s)

/-- The take of an accepted REPLAY or VERIFY_ARCHIVE: RING_ABSENT (REPLAY only), ENGINE_BUSY, RANGE_FUTURE or RANGE_GONE, in that
order of tests, or the engine runs over the range fixed from the bounds (R100, R101, R147, R148). -/
def Obligations.ArchiveCommandTaken : Prop :=
  ∀ (s : State) (h : Attached) (read : Nat) (tag : BitVec 16) (first : BitVec 64) (count : BitVec 32), ReadInFlight s read h →
    (∀ (ring : Byte) (n : RingNo), Accepted (.replay ⟨read, tag⟩ first count ring) → ring.toNat = n.val →
      exec (.replay ⟨read, tag⟩ first count ring) s = .next (s.withHost
        (if h.eventRings.get n = none then h.answered s.capture.elapsed 0x09 tag 0x04 0 (zeros 24)
        else if h.archiveEngine ≠ .idle then h.answered s.capture.elapsed 0x09 tag 0x03 0 (zeros 24)
        else
          match s.capture.archive.bounds with
          | none => h.answered s.capture.elapsed 0x09 tag 0x08 0 (zeros 24)
          | some b =>
            if b.newest < first.toNat then h.answered s.capture.elapsed 0x09 tag 0x08 0 (zeros 24)
            else if min (first.toNat + count.toNat - 1) b.newest < max first.toNat b.oldest then
              h.answered s.capture.elapsed 0x09 tag 0x07 0 (zeros 24)
            else
              { h.readDone with
                archiveEngine := .replaying
                  { tag := tag, firstRequested := first.toNat, rangeStart := max first.toNat b.oldest
                    rangeEnd := min (first.toNat + count.toNat - 1) b.newest, next := max first.toNat b.oldest, done := 0
                    failures := 0, readFrom := s.capture.elapsed } n none }))) ∧
    (Accepted (.verifyArchive ⟨read, tag⟩ first count) →
      exec (.verifyArchive ⟨read, tag⟩ first count) s = .next (s.withHost
        (if h.archiveEngine ≠ .idle then h.answered s.capture.elapsed 0x0A tag 0x03 0 (zeros 24)
        else
          match s.capture.archive.bounds with
          | none => h.answered s.capture.elapsed 0x0A tag 0x08 0 (zeros 24)
          | some b =>
            if b.newest < first.toNat then h.answered s.capture.elapsed 0x0A tag 0x08 0 (zeros 24)
            else if min (first.toNat + count.toNat - 1) b.newest < max first.toNat b.oldest then
              h.answered s.capture.elapsed 0x0A tag 0x07 0 (zeros 24)
            else
              { h.readDone with
                archiveEngine := .verifying
                  { tag := tag, firstRequested := first.toNat, rangeStart := max first.toNat b.oldest
                    rangeEnd := min (first.toNat + count.toNat - 1) b.newest, next := max first.toNat b.oldest, done := 0
                    failures := 0, readFrom := s.capture.elapsed } 0xFFFFFFFF })))

/-- A read of a REPLAY keeps the stored 32 bytes of the next entry with the outcome of its check, or, where the entry has been
removed, ends the command with OVERTAKEN and the counts as they stand (R98, R102, R104, R105). -/
def Obligations.ReplayReadKeepsCopy : Prop :=
  ∀ (s : State) (h : Attached) (x : ArchiveContext) (n : RingNo), s.host.session = .attached h →
    h.archiveEngine = .replaying x n none →
    (∀ e, s.capture.archive.find x.next = some e →
      exec .replayRead s = .next (s.withHost { h with
        archiveEngine := .replaying x n (some { record := e.record, failed := decide (checkCode e.record ≠ e.code) }) })) ∧
    (∀ b, s.capture.archive.bounds = some b → x.next < b.oldest →
      exec .replayRead s = .next (s.withHost ({ h with archiveEngine := .idle }.completed s.capture.elapsed 0x09 x.tag 0x09 0
        (bytesOf 8 (word64 (if x.done = 0 then 0 else x.rangeStart)) ++ bytesOf 4 (BitVec.ofNat 32 x.done) ++
          bytesOf 4 (BitVec.ofNat 32 x.failures) ++ zeros 8))))

/-- The grant of a held copy: with a free slot and no live claim, the copy takes the next slot with REPLAY set, CHECK_FAILED as its
check gave and the ring's phase; the counts and the next number move, and after the copy of the range end the command completes with
SUCCESS or RANGE_GONE. With a live claim or without a free slot nothing happens (R102, R103, R105, R125). That the unassigned bits
of a disturbed entry (bits 3, 6 and 7 of byte 1, bits 7 to 4 of byte 3) are 0 in its copy is the model's reading of R178 and R103 (log
entry 12). -/
def Obligations.ReplayGrantDeliversCopy : Prop :=
  ∀ (s : State) (h : Attached) (x : ArchiveContext) (n : RingNo) (copy : HeldCopy) (r : HostRing),
    s.host.session = .attached h → h.archiveEngine = .replaying x n (some copy) → h.eventRings.get n = some r →
    ((r.occupied < r.size - 1 ∧ ∀ e, s.capture.firstFor n = some e → s.capture.elapsed < e.capture + s.capture.horizon) →
      ∃ bytes, bytes = ((bytesOf 32 copy.record).set 1
          ((fieldAt copy.record 1 8 &&& 0x30) ||| BitVec.ofNat 8 (r.phase.toNat + 2 + 4 * copy.failed.toNat))).set 3
          (fieldAt copy.record 3 8 &&& 0x0F) ∧
        exec .replayGrant s = .next (s.withHost
          (if x.rangeEnd < x.next + 1 then
            ({ h with archiveEngine := .idle }.ringWritten n r s.capture.elapsed bytes).completed s.capture.elapsed 0x09 x.tag
              (if x.firstRequested < x.rangeStart then 0x07 else 0x00) 0
              (bytesOf 8 (word64 x.rangeStart) ++ bytesOf 4 (BitVec.ofNat 32 (x.done + 1)) ++
                bytesOf 4 (BitVec.ofNat 32 (x.failures + copy.failed.toNat)) ++ zeros 8)
          else
            { h with
              archiveEngine := .replaying { x with
                done := x.done + 1, failures := x.failures + copy.failed.toNat, next := x.next + 1
                readFrom := s.capture.elapsed } n none }.ringWritten n r s.capture.elapsed bytes))) ∧
    ((r.size - 1 ≤ r.occupied ∨ ∃ e, s.capture.firstFor n = some e ∧ e.capture + s.capture.horizon ≤ s.capture.elapsed) →
      exec .replayGrant s = .next s)

/-- A read of a VERIFY_ARCHIVE feeds the stored bytes of the next entry into the CRC and counts it, and completes after the entry of
the range end; where the entry has been removed it ends with OVERTAKEN and the CRC so far (R104, R106, R108). That the phase, REPLAY
and CHECK_FAILED bits of a disturbed entry are fed as stored is the model's reading of R106 (log entry 21). -/
def Obligations.VerifyReadCoversEntry : Prop :=
  ∀ (s : State) (h : Attached) (x : ArchiveContext) (crc : BitVec 32), s.host.session = .attached h →
    h.archiveEngine = .verifying x crc →
    (∀ e, s.capture.archive.find x.next = some e →
      ∃ failures crc', failures = x.failures + (if checkCode e.record = e.code then 0 else 1) ∧
        crc' = crc32Feed crc (bytesOf 32 e.record) ∧
        exec .verifyRead s = .next (s.withHost
          (if x.rangeEnd < x.next + 1 then
            { h with archiveEngine := .idle }.completed s.capture.elapsed 0x0A x.tag
              (if x.firstRequested < x.rangeStart then 0x07 else 0x00) 0
              (bytesOf 8 (word64 x.rangeStart) ++ bytesOf 4 (BitVec.ofNat 32 (x.done + 1)) ++
                bytesOf 4 (BitVec.ofNat 32 failures) ++ bytesOf 4 (crc32Final crc') ++ zeros 4)
          else
            { h with
              archiveEngine := .verifying { x with
                done := x.done + 1, failures := failures, next := x.next + 1, readFrom := s.capture.elapsed } crc' }))) ∧
    (∀ b, s.capture.archive.bounds = some b → x.next < b.oldest →
      exec .verifyRead s = .next (s.withHost ({ h with archiveEngine := .idle }.completed s.capture.elapsed 0x0A x.tag 0x09 0
        (bytesOf 8 (word64 (if x.done = 0 then 0 else x.rangeStart)) ++ bytesOf 4 (BitVec.ofNat 32 x.done) ++
          bytesOf 4 (BitVec.ofNat 32 x.failures) ++ bytesOf 4 (crc32Final crc) ++ zeros 4))))

/-- An accepted ABORT that names the tag of the running archive command ends it: its completion with ABORTED and the counts as they
stand comes first, the ABORT's SUCCESS after it, a held copy is dropped and the engine is IDLE; otherwise the ABORT completes with
NOT_FOUND and the engine is unaffected (R110, R149). -/
def Obligations.AbortEndsRunningCommand : Prop :=
  ∀ (s : State) (h : Attached) (read : Nat) (tag target : BitVec 16), ReadInFlight s read h → Accepted (.abort ⟨read, tag⟩ target) →
    (∀ x n copy, h.archiveEngine = .replaying x n copy → x.tag = target →
      exec (.abort ⟨read, tag⟩ target) s = .next (s.withHost
        (({ h.readDone with archiveEngine := .idle }.completed s.capture.elapsed 0x09 target 0x0A 0
          (bytesOf 8 (word64 (if x.done = 0 then 0 else x.rangeStart)) ++ bytesOf 4 (BitVec.ofNat 32 x.done) ++
            bytesOf 4 (BitVec.ofNat 32 x.failures) ++ zeros 8)).completed s.capture.elapsed 0x0B tag 0x00 0 (zeros 24)))) ∧
    (∀ x crc, h.archiveEngine = .verifying x crc → x.tag = target →
      exec (.abort ⟨read, tag⟩ target) s = .next (s.withHost
        (({ h.readDone with archiveEngine := .idle }.completed s.capture.elapsed 0x0A target 0x0A 0
          (bytesOf 8 (word64 (if x.done = 0 then 0 else x.rangeStart)) ++ bytesOf 4 (BitVec.ofNat 32 x.done) ++
            bytesOf 4 (BitVec.ofNat 32 x.failures) ++ bytesOf 4 (crc32Final crc) ++ zeros 4)).completed
          s.capture.elapsed 0x0B tag 0x00 0 (zeros 24)))) ∧
    ((∀ x n copy, h.archiveEngine = .replaying x n copy → x.tag ≠ target) →
      (∀ x crc, h.archiveEngine = .verifying x crc → x.tag ≠ target) →
      exec (.abort ⟨read, tag⟩ target) s = .next (s.withHost (h.answered s.capture.elapsed 0x0B tag 0x0B 0 (zeros 24))))

/-- The CRC-32 over any bytes equals the one of the reflected form of the generator, in which a register shifted right takes each byte
into its low end and is complemented at the end; over no bytes it is 0, over "123456789" it is CBF4_3926h, and it runs over two
runs of bytes as over their concatenation (R107). -/
def Obligations.Crc32IsTheReflectedCrc : Prop :=
  (∀ bytes : List Byte, crc32Final (crc32Feed crc32Initial bytes) =
    ~~~ bytes.foldl
      (fun r b => (List.range 8).foldl
        (fun x _ => if x.getLsbD 0 then (x >>> 1) ^^^ 0xEDB88320#32 else x >>> 1) (r ^^^ b.setWidth 32))
      0xFFFFFFFF#32) ∧
  crc32Final crc32Initial = 0 ∧
  crc32Final (crc32Feed crc32Initial [0x31, 0x32, 0x33, 0x34, 0x35, 0x36, 0x37, 0x38, 0x39]) = 0xCBF43926#32 ∧
  ∀ (r : BitVec 32) (a b : List Byte), crc32Feed r (a ++ b) = crc32Feed (crc32Feed r a) b

/-! ### Commands (Chapters 7 and 8) -/

/-- COMMAND_TAKE issues the read of the record at the consumer index when the command engine is idle, a command waits and the free
completion slots exceed the completions promised; when one of the three fails, or outside ATTACHED, nothing happens (R121, R122).
The commands waiting and the occupied slots are the producer index minus the consumer index modulo the size (R115), and entry `i` of a
ring lies at the base plus `i` times the entry size, where that is below 2^64 (section 7.1). The number of the read is the model's
(log entry 9). -/
def Obligations.CommandTakeIssuesRead : Prop :=
  (∀ (s : State) (h : Attached), s.host.session = .attached h →
    exec .commandTake s =
      if h.command = .idle ∧ h.commandRing.waiting ≠ 0 ∧
          (if h.archiveEngine = .idle then 0 else 1) < h.completionRing.size - 1 - h.completionRing.occupied then
        .next { s.withHost { h with
          command := .reading (slotAddress h.commandRing.base 64 h.commandRing.consumer) s.capture.elapsed s.reads }
          with reads := s.reads + 1 }
      else .next s) ∧
  (∀ s : State, (∀ h, s.host.session ≠ .attached h) → exec .commandTake s = .next s) ∧
  (∀ (base : BitVec 64) (entrySize i : Nat), base.toNat + i * entrySize < 2 ^ 64 →
    (slotAddress base entrySize i).toNat = base.toNat + i * entrySize) ∧
  (∀ r : CommandRing, r.producer < r.size → r.consumer < r.size →
    r.waiting < r.size ∧ (r.consumer + r.waiting) % r.size = r.producer) ∧
  (∀ r : HostRing, r.producer < r.size → r.consumer < r.size →
    r.occupied < r.size ∧ (r.consumer + r.occupied) % r.size = r.producer)

/-- A command whose kind code is none of the twelve is refused with BAD_KIND and its kind byte; a command of the twelve is refused
with BAD_FIELD and the index of its first field that is out of range, where it answers the read in flight; neither changes anything
else (R132). That a command says which read it answers is the model's (log entry 9). -/
def Obligations.ValidationRefuses : Prop :=
  (∀ (s : State) (h : Attached) (read : Nat) (kind : Byte) (tag : BitVec 16), ReadInFlight s read h →
    (kind.toNat = 0 ∨ 12 < kind.toNat) →
    exec (.badKind kind ⟨read, tag⟩) s = .next (s.withHost (h.answered s.capture.elapsed kind tag 0x01 0 (zeros 24)))) ∧
  (∀ (s : State) (h : Attached) (read : Nat) (c : Instr) (kind : Byte) (tag : BitVec 16) (k : Nat), ReadInFlight s read h →
    c.answeredRead = some read → commandHeader c = some (kind, tag) → ¬ FieldOk c k → (∀ j, j < k → FieldOk c j) →
    exec c s = .next (s.withHost (h.answered s.capture.elapsed kind tag 0x02 k (zeros 24))))

/-- R136: a CONFIGURE_GROUP that passes validation is refused with RING_ABSENT when its target ring is absent from the session,
whatever its enabled field; otherwise the entry is replaced and the completion carries SUCCESS and no result. No other command but
a power-on reset changes the group table, whatever session begins or ends. -/
def Obligations.ConfigureGroupReplacesEntry : Prop :=
  (∀ (s : State) (h : Attached) (read : Nat) (tag : BitVec 16) (group cls ring enabled : Byte) (g : GroupNo) (k : ClassNo) (n : RingNo),
    ReadInFlight s read h → Accepted (.configureGroup ⟨read, tag⟩ group cls ring enabled) → group.toNat = g.val → cls.toNat = k.val →
    ring.toNat = n.val →
    exec (.configureGroup ⟨read, tag⟩ group cls ring enabled) s =
      if h.eventRings.get n = none then .next (s.withHost (h.answered s.capture.elapsed 0x02 tag 0x04 0 (zeros 24)))
      else .next { s with
        capture := { s.capture with
          groups := s.capture.groups.set g.val { cls := k, ring := n, enabled := decide (enabled = 1) } }
        host := { s.host with session := .attached (h.answered s.capture.elapsed 0x02 tag 0x00 0 (zeros 24)) } }) ∧
  (∀ (s t : State) (c : Instr), exec c s = .next t →
    (∀ read tag group cls ring enabled, c ≠ .configureGroup ⟨read, tag⟩ group cls ring enabled) →
    (∀ levels sync, c ≠ .powerOnReset levels sync) →
    t.capture.groups = s.capture.groups)

/-- An accepted SNAPSHOT_LEVELS makes the write of its 40 bytes due at the address named, and the command executes until that write is
issued; no other state changes. The level bit of a line is 0 in OFF and its stable level in STABLE and CANDIDATE, its valid bit is 1 outside
OFF role, and its chatter bit is 1 in CHATTERING (R141, R142, R180). -/
def Obligations.SnapshotLevelsBuffer : Prop :=
  ∀ (s : State) (h : Attached) (read : Nat) (tag : BitVec 16) (address : BitVec 64), ReadInFlight s read h →
    Accepted (.snapshotLevels ⟨read, tag⟩ address) →
    ∃ levels valid chatter : BitVec 64,
      (∀ i : LineNo,
        ((s.capture.line i).qualifier = .off → levels.getLsbD i.val = false) ∧
        (∀ level, (s.capture.line i).qualifier = .stable level → levels.getLsbD i.val = level) ∧
        (∀ level target capture stamp, (s.capture.line i).qualifier = .candidate level target capture stamp →
          levels.getLsbD i.val = level) ∧
        (valid.getLsbD i.val = true ↔ (s.capture.line i).config.role ≠ .off) ∧
        (chatter.getLsbD i.val = true ↔ ∃ quiet, (s.capture.line i).chatter = .chattering quiet)) ∧
      (levels.toNat < 2 ^ 48 ∧ valid.toNat < 2 ^ 48 ∧ chatter.toNat < 2 ^ 48) ∧
      exec (.snapshotLevels ⟨read, tag⟩ address) s = .next (s.withHost { h.readDone with
        command := .executing 0x06 tag
        due := h.due ++ [{
          source := .buffer, address := address, dueAt := s.capture.elapsed
          data := bytesOf 8 levels ++ bytesOf 8 valid ++ bytesOf 8 chatter ++ bytesOf 8 (word64 s.capture.timebase.timeValue) ++
            bytesOf 4 s.capture.timebase.generation ++ [BitVec.ofNat 8 (qualityNumber s.capture.timebase.quality)] ++ zeros 3 }] })

/-- An accepted SNAPSHOT_COUNTERS hands a COUNT record of every selected line to the staging queue, in ascending line order, each as
its own insertion with the shedding it causes; with the clear flag the counters of the selected lines, and no others, become 0; the
completion reports how many were held after their own insertion and how many were not; where all of them find room they are all
staged, and the queue is the old entries and they (R35, R36, R143). -/
def Obligations.SnapshotCountersRecords : Prop :=
  ∀ (s : State) (h : Attached) (read : Nat) (tag : BitVec 16) (groupMask clear : Byte) (selected : List LineNo)
    (handed : Capture × List Bool), ReadInFlight s read h → Accepted (.snapshotCounters ⟨read, tag⟩ groupMask clear) →
    selected = (List.finRange 48).filter (fun i => decide ((s.capture.line i).config.role = .count ∧
      groupMask.getLsbD (s.capture.line i).config.group.val = true ∧
      (s.capture.groups.get (s.capture.line i).config.group).enabled = true)) →
    handed = s.capture.handedAll (selected.map s.capture.countRecord) →
    exec (.snapshotCounters ⟨read, tag⟩ groupMask clear) s = .next { s with
      capture := { handed.1 with
        lines := Vector.ofFn fun i =>
          if clear = 1 ∧ i ∈ selected then { handed.1.line i with counter := 0 } else handed.1.line i }
      host := { s.host with session := .attached (h.answered s.capture.elapsed 0x07 tag 0x00 0
        (bytesOf 2 (BitVec.ofNat 16 (handed.2.count true)) ++ bytesOf 2 (BitVec.ofNat 16 (handed.2.count false)) ++ zeros 20)) } } ∧
    handed.2.count true + handed.2.count false = selected.length ∧
    handed.1 = { s.capture with
      lines := handed.1.lines, staging := handed.1.staging, highWater := handed.1.highWater, tallies := handed.1.tallies } ∧
    (∀ i, SameButShedCount (s.capture.line i) (handed.1.line i)) ∧
    (s.capture.staging.length + selected.length ≤ 512 → lineRecords s.capture.staging + selected.length ≤ 504 →
      handed.2.count false = 0 ∧ handed.1.tallies = s.capture.tallies ∧
      handed.1.staging.Perm (selected.map s.capture.countRecord ++ s.capture.staging))

/-- An accepted READ_STATISTICS makes the write of its 824 bytes due at the address named, each figure at its offset; with the clear
flag the four counts of every line and the high-water mark become 0, and nothing else changes (R144, R145, R146, R180). -/
def Obligations.ReadStatisticsBuffer : Prop :=
  ∀ (s : State) (h : Attached) (read : Nat) (tag : BitVec 16) (address : BitVec 64) (clear : Byte), ReadInFlight s read h →
    Accepted (.readStatistics ⟨read, tag⟩ address clear) →
    ∃ (data : List Byte) (t : State), data.length = 824 ∧
      (∀ i : LineNo,
        (data.drop (4 * i.val)).take 4 = bytesOf 4 (s.capture.line i).glitchCount ∧
        (data.drop (192 + 4 * i.val)).take 4 = bytesOf 4 (s.capture.line i).transitionCount ∧
        (data.drop (384 + 4 * i.val)).take 4 = bytesOf 4 (s.capture.line i).shedCount ∧
        (data.drop (576 + 4 * i.val)).take 4 = bytesOf 4 (s.capture.line i).episodeCount) ∧
      (∀ n : RingNo,
        (data.drop (768 + 8 * n.val)).take 8 = bytesOf 4 (s.capture.tallies.get n).count ++
          [BitVec.setWidth 8 (s.capture.tallies.get n).classes, 0, 0, 0]) ∧
      (data.drop 800).take 8 = bytesOf 8 (BitVec.ofNat 64 s.capture.highWater) ∧
      (data.drop 808).take 8 = bytesOf 8 (word64 s.capture.archive.oldest) ∧
      (data.drop 816).take 8 = bytesOf 8 (word64 s.capture.archive.newest) ∧
      exec (.readStatistics ⟨read, tag⟩ address clear) s = .next t ∧
      t = { s with
        capture := { s.capture with
          lines := t.capture.lines
          highWater := if clear = 1 then 0 else s.capture.highWater }
        host := { s.host with session := .attached { h.readDone with
          command := .executing 0x08 tag
          due := h.due ++ [{ source := .buffer, address := address, data := data, dueAt := s.capture.elapsed }] } } } ∧
      ∀ i, t.capture.line i =
        if clear = 1 then
          { s.capture.line i with glitchCount := 0, transitionCount := 0, shedCount := 0, episodeCount := 0 }
        else s.capture.line i

/-- An accepted SET_NOTIFY replaces the threshold and delay of the vector named and nothing else of it, and completes with SUCCESS; a
vector of an absent event ring is refused with RING_ABSENT (R150, R151). -/
def Obligations.SetNotifyReplacesThresholdAndDelay : Prop :=
  ∀ (s : State) (h : Attached) (read : Nat) (tag : BitVec 16) (vector threshold : Byte) (delay : BitVec 16) (v : VectorNo),
    ReadInFlight s read h → Accepted (.setNotify ⟨read, tag⟩ vector threshold delay) → vector.toNat = v.val →
    exec (.setNotify ⟨read, tag⟩ vector threshold delay) s =
      if ∃ n : RingNo, v.val = n.val + 1 ∧ h.eventRings.get n = none then
        .next (s.withHost (h.answered s.capture.elapsed 0x0C tag 0x04 0 (zeros 24)))
      else
        .next (s.withHost { h.answered s.capture.elapsed 0x0C tag 0x00 0 (zeros 24) with
          vectors := h.vectors.set v.val { h.vectors.get v with threshold := threshold.toNat, delay := delay.toNat } })

/-! ### Memory writes and notification messages (Chapters 7 and 10) -/

/-- The issue of the first due write puts it on the link, and: a record is posted to its ring's vector, which sends, starts its timer
or only counts (R169); the write of a result buffer lets its command complete with SUCCESS (R142, R146); a message ends there; and
the fault message leaves the part FAULTED with nothing due (R163). The expiry of a coalescing timer makes its vector send: the
message becomes due and the vector is left DISARMED with count 0 and its timer idle (R170, R171). That all due writes stand in one
order, that of becoming due, is the model's reading of R126 and R171 (log entry 14), and so is the byte order of a message's data (log
entry 20). -/
def Obligations.WritesAndMessagesGoOut : Prop :=
  (∀ (s : State) (h : Attached) (w : DueWrite) (rest : List DueWrite) (v : VectorNo), s.host.session = .attached h →
    h.due = w :: rest → s.capture.elapsed ≤ w.dueAt + 50000 →
    ((w.source = .completion ∧ v.val = 0) ∨ ∃ n : RingNo, w.source = .record n ∧ v.val = n.val + 1) →
    exec .memoryWriteIssue s = .next { s.withHost
      (if (h.vectors.get v).armed = true ∧ ((h.vectors.get v).threshold ≤ (h.vectors.get v).count + 1 ∨
          ((h.vectors.get v).count = 0 ∧ (h.vectors.get v).delay = 0)) then
        { h with due := rest }.messageSent v s.capture.elapsed
      else
        { h with
          due := rest
          vectors := h.vectors.set v.val { h.vectors.get v with
            count := (h.vectors.get v).count + 1
            timer :=
              if (h.vectors.get v).armed = true ∧ (h.vectors.get v).count = 0 then
                some (s.capture.elapsed + (h.vectors.get v).delay)
              else (h.vectors.get v).timer } })
      with link := { address := w.address, data := w.data } :: s.link }) ∧
  (∀ (s : State) (h : Attached) (w : DueWrite) (rest : List DueWrite) (kind : Byte) (tag : BitVec 16),
    s.host.session = .attached h → h.due = w :: rest → s.capture.elapsed ≤ w.dueAt + 50000 → w.source = .buffer →
    h.command = .executing kind tag →
    exec .memoryWriteIssue s = .next { s.withHost
      ({ h with due := rest, command := .idle }.completed s.capture.elapsed kind tag 0x00 0 (zeros 24))
      with link := { address := w.address, data := w.data } :: s.link }) ∧
  (∀ (s : State) (h : Attached) (w : DueWrite) (rest : List DueWrite) (v : VectorNo), s.host.session = .attached h →
    h.due = w :: rest → s.capture.elapsed ≤ w.dueAt + 50000 → w.source = .message v →
    exec .memoryWriteIssue s =
      .next { s.withHost { h with due := rest } with link := { address := w.address, data := w.data } :: s.link }) ∧
  (∀ (s : State) (w : DueWrite), s.host.session = .faulted (some w) → s.capture.elapsed ≤ w.dueAt + 50000 →
    exec .memoryWriteIssue s = .next { s with
      host := { s.host with session := .faulted none }
      link := { address := w.address, data := w.data } :: s.link }) ∧
  (∀ (s : State) (h : Attached) (v : VectorNo) (x : Nat), s.host.session = .attached h → (h.vectors.get v).timer = some x →
    x ≤ s.capture.elapsed →
    exec (.coalescingTimerExpiry v) s = .next (s.withHost (h.messageSent v s.capture.elapsed)))

/-- A CMD_TAIL, CPL_HEAD or EVT_HEAD write is ignored outside ATTACHED. Within it, CMD_TAIL sets the producer index, or faults with
BAD_TAIL_INDEX at the size or above; a head write forward from the consumer index up to the producer index sets the consumer index
and arms the vector of its ring, and any other, or one for an absent ring, faults with BAD_HEAD_INDEX (R117, R118, R119, R172,
R162, R163). The byte order of a message's data is the model's (log entry 20). -/
def Obligations.IndexWrites : Prop :=
  (∀ (s : State) (value : BitVec 32) (n : RingNo), (∀ h, s.host.session ≠ .attached h) →
    exec (.cmdTail value) s = .next s ∧ exec (.cplHead value) s = .next s ∧ exec (.evtHead n value) s = .next s) ∧
  (∀ (s : State) (h : Attached) (value : BitVec 32), s.host.session = .attached h →
    exec (.cmdTail value) s = .next
      (if value.toNat < h.commandRing.size then
        s.withHost { h with commandRing := { h.commandRing with producer := value.toNat } }
      else { s with host := s.host.faultedFrom h .badTailIndex s.capture.elapsed })) ∧
  (∀ (s : State) (h : Attached) (value : BitVec 32) (n : RingNo) (c : Instr) (v : VectorNo) (ring : Option HostRing)
      (moved : Attached), s.host.session = .attached h →
    ((c = .cplHead value ∧ v.val = 0 ∧ ring = some h.completionRing ∧
        moved = { h with completionRing := { h.completionRing with consumer := value.toNat } }) ∨
      (c = .evtHead n value ∧ v.val = n.val + 1 ∧ ring = h.eventRings.get n ∧
        moved = { h with eventRings := h.eventRings.set n.val (ring.map fun r => { r with consumer := value.toNat }) })) →
    exec c s = .next
      (if ring.any (fun r => decide (value.toNat < r.size ∧
          (value.toNat + r.size - r.consumer) % r.size ≤ (r.producer + r.size - r.consumer) % r.size)) = true then
        s.withHost
          (if (h.vectors.get v).threshold ≤ (h.vectors.get v).count ∨ ((h.vectors.get v).count ≠ 0 ∧
              (h.vectors.get v).timer = none ∧ (h.vectors.get v).delay = 0) then
            moved.messageSent v s.capture.elapsed
          else
            { moved with vectors := h.vectors.set v.val { h.vectors.get v with
                armed := true
                timer :=
                  if (h.vectors.get v).count ≠ 0 ∧ (h.vectors.get v).timer = none then
                    some (s.capture.elapsed + (h.vectors.get v).delay)
                  else (h.vectors.get v).timer } })
      else { s with host := s.host.faultedFrom h .badHeadIndex s.capture.elapsed }))

/-! ### The register window and the session (Chapters 9 and 11) -/

/-- A write of the register window that does not cover all four bytes, or to a read-only register, to an offset of no register, or of
a CONTROL value that is no command, is ignored; INIT_ADDR is stored in DETACHED alone; a write at a register with behaviour of its
own is that register's command. A wider write is the separate 32-bit writes of its words in ascending order of offset, so a 64-bit
write at 010h in DETACHED stores INIT_ADDR_LO and then INIT_ADDR_HI (R156, R157, R176). An offset is taken whole, so an unaligned one
is no register's (log entry 18). That the words of a write which runs past offset FFFh fall at 000h onward is the model's (log entry
22). -/
def Obligations.RegisterWrites : Prop :=
  (∀ (s : State) (offset : BitVec 12) (value : BitVec 32) (enables : BitVec 4), enables ≠ 0xF#4 →
    exec (.registerWrite offset value enables) s = .next s) ∧
  (∀ (s : State) (offset : BitVec 12) (value : BitVec 32),
    exec (.registerWrite offset value 0xF#4) s =
      if offset = 0x010 ∧ s.host.session = .detached then .next { s with host := { s.host with initAddrLo := value } }
      else if offset = 0x014 ∧ s.host.session = .detached then .next { s with host := { s.host with initAddrHi := value } }
      else if offset = 0x008 ∧ value = 1 then exec .attach s
      else if offset = 0x008 ∧ value = 2 then exec .detach s
      else if offset = 0x008 ∧ value = 4 then exec .reset s
      else if offset = 0x020 then exec (.cmdTail value) s
      else if offset = 0x024 then exec (.cplHead value) s
      else if offset = 0x030 then exec (.evtHead 0 value) s
      else if offset = 0x034 then exec (.evtHead 1 value) s
      else if offset = 0x038 then exec (.evtHead 2 value) s
      else if offset = 0x03C then exec (.evtHead 3 value) s
      else .next s) ∧
  (∀ (s : State) (offset : BitVec 12) (value : BitVec 32) (enables : BitVec 4),
    exec (commandOfWrite offset value enables) s = exec (.registerWrite offset value enables) s) ∧
  (∀ (offset : BitVec 12) (words : List (BitVec 32 × BitVec 4)),
    (commandsOfWrite offset words).length = words.length ∧
    ∀ (k : Nat) (value : BitVec 32) (enables : BitVec 4), words[k]? = some (value, enables) →
      ∃ c, (commandsOfWrite offset words)[k]? = some c ∧
        ∀ s, exec c s = exec (.registerWrite (offset + BitVec.ofNat 12 (4 * k)) value enables) s) ∧
  (∀ (offset : BitVec 12) (low high : BitVec 32) (lowEnables highEnables : BitVec 4),
    commandsOfWrite64 offset (high ++ low) (highEnables ++ lowEnables) =
      commandsOfWrite offset [(low, lowEnables), (high, highEnables)]) ∧
  (∀ (s : State) (low high : BitVec 32), s.host.session = .detached →
    ∃ t, step { s with pending := commandsOfWrite64 0x010 (high ++ low) 0xFF ++ s.pending } = .next t ∧
      t.host.initAddrLo = low ∧ t.host.initAddrHi = s.host.initAddrHi ∧
      step t = .next { s with host := { s.host with initAddrLo := low, initAddrHi := high } })

/-- A read of the register window: IDENT is constant, STATUS packs the fields of R164 with every other bit 0, INIT_ADDR reads what is
held, the index registers read the indices held in ATTACHED and 0 outside it and for an absent ring, and CONTROL and every other
offset read 0 (R117, R156, R157, R164, R176, R177). That an unaligned offset is one of those others is the model's (log entry 18),
and so is that a read is a function of the state and no command (log entry 13). -/
def Obligations.RegisterReads : Prop :=
  ∀ s : State,
    s.readRegister 0x000 = 0x48430100 ∧ s.readRegister 0x008 = 0 ∧
    s.readRegister 0x010 = s.host.initAddrLo ∧ s.readRegister 0x014 = s.host.initAddrHi ∧
    (s.readRegister 0x004).toNat =
      sessionNumber s.host.session + 2 ^ 4 * faultNumber s.host.faultCode + 2 ^ 8 * s.host.initFieldIndex.toNat +
      2 ^ 16 * resetNumber s.host.resetCause + 2 ^ 20 * qualityNumber s.capture.timebase.quality +
      2 ^ 24 * busyNumber s.host.session + 2 ^ 25 * (if s.host.faultNotifyFailed = true then 1 else 0) ∧
    (∀ h, s.host.session = .attached h →
      s.readRegister 0x020 = BitVec.ofNat 32 h.commandRing.producer ∧
      s.readRegister 0x024 = BitVec.ofNat 32 h.completionRing.consumer ∧
      ∀ n : RingNo, s.readRegister (BitVec.ofNat 12 (0x030 + 4 * n.val)) =
        match h.eventRings.get n with
        | some r => BitVec.ofNat 32 r.consumer
        | none => 0) ∧
    ((∀ h, s.host.session ≠ .attached h) →
      s.readRegister 0x020 = 0 ∧ s.readRegister 0x024 = 0 ∧
      ∀ n : RingNo, s.readRegister (BitVec.ofNat 12 (0x030 + 4 * n.val)) = 0) ∧
    (∀ offset : BitVec 12,
      offset ∉ [0x000, 0x004, 0x010, 0x014, 0x020, 0x024, 0x030, 0x034, 0x038, (0x03C : BitVec 12)] → s.readRegister offset = 0)

/-- An ATTACH in DETACHED clears the fault state and begins the read at the address in the two INIT_ADDR registers; in any other state
it is ignored (R155, R156, R158). The number of the read is the model's (log entry 9). -/
def Obligations.AttachBeginsInDetached : Prop :=
  ∀ s : State,
    (s.host.session = .detached →
      exec .attach s = .next { s with
        host := { s.host with
          faultCode := .none
          initFieldIndex := 0
          faultNotifyFailed := false
          session := .attaching (BitVec.ofNat 64 (s.host.initAddrHi.toNat * 2 ^ 32 + s.host.initAddrLo.toNat))
            s.capture.elapsed s.reads }
        reads := s.reads + 1 }) ∧
    (s.host.session ≠ .detached → exec .attach s = .next s)

/-- The initialisation block read that completes in time is validated field by field: the first field that fails ends the attachment
with INIT_INVALID and its index and no message; a block with every field valid makes the session ATTACHED with every index 0, every
phase 1, every vector ARMED and the ATTACHED completion in slot 0 (R159, R160, R114, R168). -/
def Obligations.BlockReadAttachesOrFaults : Prop :=
  ∀ (s : State) (b : InitBlock) (address : BitVec 64) (dueAt read : Nat), s.host.session = .attaching address dueAt read →
    s.capture.elapsed ≤ dueAt + 50000 →
    (∀ k : Nat, k ≤ 37 → ¬ BlockFieldOk b k → (∀ j, j < k → BlockFieldOk b j) →
      exec (.blockReadComplete ⟨read, b⟩) s = .next { s with host := { s.host with
        faultCode := .initInvalid
        initFieldIndex := BitVec.ofNat 6 k
        session := .faulted none } }) ∧
    ((∀ k, BlockFieldOk b k) →
      ∃ h : Attached, exec (.blockReadComplete ⟨read, b⟩) s = .next (s.withHost h) ∧
        h.commandRing = { base := b.commandBase, size := b.commandSize.toNat, producer := 0, consumer := 0 } ∧
        h.completionRing = { base := b.completionBase, size := b.completionSize.toNat, producer := 1, consumer := 0, phase := true } ∧
        (∀ n, h.eventRings.get n =
          if (b.eventRings.get n).size = 0 then none
          else some { base := (b.eventRings.get n).base, size := (b.eventRings.get n).size.toNat, producer := 0, consumer := 0,
                      phase := true }) ∧
        h.systemRing.val = b.systemRing.toNat ∧
        (∀ v, h.vectors.get v = { armed := true, count := 0, timer := none, threshold := (b.vectors.get v).threshold.toNat,
                                  delay := (b.vectors.get v).delay.toNat, address := (b.vectors.get v).address,
                                  data := (b.vectors.get v).data }) ∧
        h.command = .idle ∧ h.archiveEngine = .idle ∧
        h.due = [{
          source := .completion
          address := b.completionBase
          data := completionBytes 0x80 true 0xFFFF 0x00 0 0
            (bytesOf 8 (word64 s.capture.sequence) ++ bytesOf 4 s.capture.timebase.generation ++
              [BitVec.ofNat 8 (qualityNumber s.capture.timebase.quality), BitVec.ofNat 8 (resetNumber s.host.resetCause)] ++ zeros 10)
          dueAt := s.capture.elapsed }])

/-- The bus errors: of the block read in ATTACHING, of a command read and of a due write in ATTACHED, each where its completion is bad
in time or its 50 ms have passed, take the session to FAULTED with its code, with the fault message due exactly when an ATTACHED
session ended; a fault message that cannot be issued in 50 ms sets the flag (R127, R128, R158, R162, R163). That the write that
times out is the first one due is the model's (log entry 14), and so are the number by which a completion names its read (log entry
9) and the byte order of the fault message's data (log entry 20). -/
def Obligations.BusErrorsFault : Prop :=
  (∀ (s : State) (address : BitVec 64) (dueAt read : Nat) (cause : ReadFailure),
    s.host.session = .attaching address dueAt read →
    ((cause = .badCompletion read ∧ s.capture.elapsed ≤ dueAt + 50000) ∨ (cause = .timeout ∧ dueAt + 50000 ≤ s.capture.elapsed)) →
    exec (.initBusError cause) s = .next { s with host := { s.host with
      faultCode := .initBusError, session := .faulted none } }) ∧
  (∀ (s : State) (h : Attached) (address : BitVec 64) (dueAt read : Nat) (cause : ReadFailure), s.host.session = .attached h →
    h.command = .reading address dueAt read →
    ((cause = .badCompletion read ∧ s.capture.elapsed ≤ dueAt + 50000) ∨ (cause = .timeout ∧ dueAt + 50000 ≤ s.capture.elapsed)) →
    exec (.readBusError cause) s = .next { s with host := s.host.faultedFrom h .readBusError s.capture.elapsed }) ∧
  (∀ (s : State) (h : Attached) (w : DueWrite) (rest : List DueWrite), s.host.session = .attached h → h.due = w :: rest →
    w.dueAt + 50000 ≤ s.capture.elapsed →
    exec .writeBusError s = .next { s with host := s.host.faultedFrom h .writeBusError s.capture.elapsed }) ∧
  (∀ (s : State) (w : DueWrite), s.host.session = .faulted (some w) → w.dueAt + 50000 ≤ s.capture.elapsed →
    exec .faultNotifyFailed s = .next { s with host := { s.host with
      faultNotifyFailed := true, session := .faulted none } })

/-- DETACH takes every state to DETACHED, keeping the fault code, the field index and the flag; RESET and LINK_RESET clear the whole
host side and record the reset cause; none touches the capture side or what is on the link (R161, R165). That every way the link
resets the part has one effect here is R165; what is on the link is the model's own field (log entry 5). -/
def Obligations.SessionEnds : Prop :=
  ∀ (s : State) (origin : LinkResetOrigin),
    exec .detach s = .next { s with host := { s.host with session := .detached } } ∧
    exec .reset s = .next { s with host := HostSide.cleared .host } ∧
    exec (.linkReset origin) s = .next { s with host := HostSide.cleared .link }

/-! ### Headline results -/

/-- Decoding a command record or an initialisation block gives back what was encoded, with every field at every value, for the read
that it answers (R179, R180). -/
def Obligations.DecodeOfEncode : Prop :=
  (∀ (c : Instr) (read : Nat) (r : BitVec 512), c.wf = true → recordOfCommand c = some r → c.answeredRead = some read →
    commandOfRecord read r = c) ∧
  (∀ b : InitBlock, initBlockOfBits (bitsOfInitBlock b) = b) ∧
  (∀ r : BitVec 512, bitsOfBytes 512 (bytesOf 64 r) = r) ∧
  (∀ r : BitVec 2048, bitsOfBytes 2048 (bytesOf 256 r) = r)

/-- Every step keeps the lines sound and the horizon that of R19: the configured values in their ranges, the qualifier state in
agreement with the role and the raw level, the chatter state with the limit, and a counter 0 outside COUNT role (R1, R3, R19, R21,
R32). -/
def Obligations.LinesStaySound : Prop := KeptByStep fun s => LinesSound s.capture ∧ HorizonSound s.capture

/-- Every step keeps the staging queue in ascending key order and within 512 entries and 504 line records (R59, R60, R62). -/
def Obligations.StagingStaysSound : Prop := KeptByStep fun s => StagingSound s.capture

/-- Every step keeps the order of stamps: what is stamped later carries no earlier generation and time value (R40, R64, R76). -/
def Obligations.StampsStaySound : Prop := KeptByStep fun s => StampsSound s.capture

/-- Every step keeps the timebase's quality, runs and timers in agreement (R42, R48, R49, R51, R139). -/
def Obligations.TimebaseStaysSound : Prop := KeptByStep fun s => TimebaseSound s.capture

/-- Every step keeps the archive one contiguous range of at most 16 384 numbers that ends below the sequence counter (R94, R96). -/
def Obligations.ArchiveStaysSound : Prop := KeptByStep fun s => ArchiveSound s.capture

/-- Every step keeps the host side sound: ring indices within their sizes, a completion slot for every completion owed, the vectors'
timers with their arming and count, vector 5 armed and silent, and the fault state in agreement with the session state (R115, R121,
R155, R164, R170, R173). -/
def Obligations.SessionStaysSound : Prop := KeptByStep fun s => SessionSound s.host

/-- Over any step, either no DMA read is issued, and the read in flight is the one before or none; or one is issued, and it is in flight
under a number that no earlier read had. So a read that a DETACH, a fault or a reset has abandoned is never in flight again, and what
arrives for it is discarded (R129, R154, R161). That reads are told apart by numbers is the model's (log entry 9). -/
def Obligations.AbandonedReadsStayAbandoned : Prop :=
  (∀ s t : State, step s = .next t →
    (t.reads = s.reads ∧ (t.readInFlight = s.readInFlight ∨ t.readInFlight = none)) ∨
    (t.reads = s.reads + 1 ∧ s.readInFlight = none ∧ t.readInFlight = some s.reads)) ∧
  KeptByStep ReadsSound

end Statements
end

