-- ==== Sys2Proof/Laws/Bytes.lean ====
section
/-! SUPPORT. Fields placed into and read out of records: what a field of a combination is, and what is read back where a field was
placed. -/

namespace Sys2Proof

theorem getLsbD_fieldAt {n : Nat} (r : BitVec n) (o w k : Nat) :
    (fieldAt r o w).getLsbD k = (decide (k < w) && r.getLsbD (8 * o + k)) := by
  simp [fieldAt, BitVec.getLsbD_extractLsb']

theorem getLsbD_placeAt {w : Nat} (n o : Nat) (x : BitVec w) (j : Nat) :
    (placeAt n o x).getLsbD j = (decide (j < n) && decide (8 * o ≤ j) && x.getLsbD (j - 8 * o)) := by
  simp only [placeAt, BitVec.getLsbD_shiftLeft, BitVec.getLsbD_setWidth]
  by_cases h : j < 8 * o
  · simp [h, Nat.not_le.mpr h]
  · by_cases hj : j < n
    · have h1 : j - 8 * o < n := by omega
      simp [h, hj, Nat.le_of_not_lt h, h1]
    · simp [hj]

/-- A field of a combination is the combination of the fields. -/
@[simp] theorem fieldAt_or {n : Nat} (a b : BitVec n) (o w : Nat) : fieldAt (a ||| b) o w = fieldAt a o w ||| fieldAt b o w := by
  apply BitVec.eq_of_getLsbD_eq
  intro k hk
  simp only [getLsbD_fieldAt, hk, decide_true, Bool.true_and, BitVec.getLsbD_or]

@[simp] theorem fieldAt_and {n : Nat} (a b : BitVec n) (o w : Nat) : fieldAt (a &&& b) o w = fieldAt a o w &&& fieldAt b o w := by
  apply BitVec.eq_of_getLsbD_eq
  intro k hk
  simp only [getLsbD_fieldAt, hk, decide_true, Bool.true_and, BitVec.getLsbD_and]

/-- A field reads back what was placed at its own offset with its own width. -/
theorem fieldAt_placeAt_same {n o w : Nat} (x : BitVec w) (h : 8 * o + w ≤ n) : fieldAt (placeAt n o x) o w = x := by
  apply BitVec.eq_of_getLsbD_eq
  intro k hk
  have h1 : 8 * o + k < n := by omega
  have h2 : 8 * o ≤ 8 * o + k := by omega
  simp only [getLsbD_fieldAt, getLsbD_placeAt, hk, h1, h2, decide_true, Bool.true_and, Nat.add_sub_cancel_left]

/-- A field reads 0 where what was placed ends below it. -/
theorem fieldAt_placeAt_above {n o p v w : Nat} (x : BitVec w) (h : 8 * p + w ≤ 8 * o) : fieldAt (placeAt n p x) o v = 0#v := by
  apply BitVec.eq_of_getLsbD_eq
  intro k _
  have h1 : w ≤ 8 * o + k - 8 * p := by omega
  simp [getLsbD_fieldAt, getLsbD_placeAt, BitVec.getLsbD_of_ge x _ h1]

/-- A field reads 0 where what was placed begins above it. -/
theorem fieldAt_placeAt_below {n o p v w : Nat} (x : BitVec w) (h : 8 * o + v ≤ 8 * p) : fieldAt (placeAt n p x) o v = 0#v := by
  apply BitVec.eq_of_getLsbD_eq
  intro k hk
  have h1 : ¬ 8 * p ≤ 8 * o + k := by omega
  simp [getLsbD_fieldAt, getLsbD_placeAt, h1]

/-- One byte of what was placed, counted from where it was placed. -/
theorem fieldAt_placeAt_byte {n o p v w : Nat} (x : BitVec w) (hp : p ≤ o) (hn : 8 * o + v ≤ n) :
    fieldAt (placeAt n p x) o v = fieldAt x (o - p) v := by
  apply BitVec.eq_of_getLsbD_eq
  intro k hk
  have h1 : 8 * o + k < n := by omega
  have h2 : 8 * p ≤ 8 * o + k := by omega
  have h3 : 8 * o + k - 8 * p = 8 * (o - p) + k := by omega
  simp only [getLsbD_fieldAt, getLsbD_placeAt, hk, h1, h2, h3, decide_true, Bool.true_and]

/-- A field at offset 0 of its own width is the whole. -/
theorem fieldAt_self {w : Nat} (x : BitVec w) : fieldAt x 0 w = x := by
  apply BitVec.eq_of_getLsbD_eq
  intro k hk
  simp only [getLsbD_fieldAt, hk, decide_true, Bool.true_and, Nat.mul_zero, Nat.zero_add]

/-- The byte that holds a flag. -/
theorem fieldAt_ofBool (b : Bool) : fieldAt (BitVec.ofBool b) 0 8 = if b then 1 else 0 := by
  cases b <;> rfl

@[simp] theorem length_bytesOf {n : Nat} (count : Nat) (x : BitVec n) : (bytesOf count x).length = count := by
  simp [bytesOf]

theorem getElem_bytesOf {n : Nat} (count : Nat) (x : BitVec n) (i : Nat) (h : i < (bytesOf count x).length) :
    (bytesOf count x)[i] = fieldAt x i 8 := by
  simp [bytesOf]

/-- The bytes of a number, its first byte apart. -/
theorem bytesOf_succ {n : Nat} (count : Nat) (x : BitVec n) :
    bytesOf (count + 1) x = fieldAt x 0 8 :: bytesOf count (x >>> 8) := by
  unfold bytesOf
  rw [List.range_succ_eq_map, List.map_cons, List.map_map]
  congr 1
  apply List.map_congr_left
  intro i _
  apply BitVec.eq_of_getLsbD_eq
  intro k hk
  have h : 8 * (i + 1) + k = 8 + (8 * i + k) := by omega
  simp [getLsbD_fieldAt, h]

/-- A number with no bit above the bytes taken is read back from them. -/
theorem bitsOfBytes_bytesOf_of_small {n : Nat} (count : Nat) :
    ∀ (x : BitVec n), (∀ k, 8 * count ≤ k → x.getLsbD k = false) → bitsOfBytes n (bytesOf count x) = x := by
  induction count with
  | zero =>
    intro x hx
    apply BitVec.eq_of_getLsbD_eq
    intro k _
    rw [hx k (by omega)]
    simp [bytesOf, bitsOfBytes]
  | succ count ih =>
    intro x hx
    have rest : bitsOfBytes n (bytesOf count (x >>> 8)) = x >>> 8 := by
      apply ih
      intro k hk
      simpa using hx (8 + k) (by omega)
    rw [bytesOf_succ, bitsOfBytes, rest]
    apply BitVec.eq_of_getLsbD_eq
    intro k hk
    simp only [BitVec.getLsbD_or, BitVec.getLsbD_setWidth, getLsbD_fieldAt, BitVec.getLsbD_shiftLeft,
      BitVec.getLsbD_ushiftRight]
    by_cases h8 : k < 8
    · simp [h8, hk]
    · have : 8 + (k - 8) = k := by omega
      simp [h8, hk, this]

/-- A number is read back from its bytes, where they cover its width. -/
theorem bitsOfBytes_bytesOf {n : Nat} (count : Nat) (x : BitVec n) (h : n ≤ 8 * count) :
    bitsOfBytes n (bytesOf count x) = x :=
  bitsOfBytes_bytesOf_of_small count x fun _ hk => BitVec.getLsbD_of_ge x _ (by omega)

/-- A run of bytes of a combination, byte by byte. -/
theorem bytesOf_or {n : Nat} (count : Nat) (a b : BitVec n) :
    bytesOf count (a ||| b) = List.zipWith (· ||| ·) (bytesOf count a) (bytesOf count b) := by
  simp [bytesOf, List.zipWith_map]

end Sys2Proof
end

