-- ==== Sys2Proof/Laws/State.lean ====
section
/-! SUPPORT. One lemma per field per named update of the state: what the update leaves, and what it sets. -/

namespace Sys2Proof.Machine

/-! ### The capture side -/

@[simp] theorem Capture.setLine_elapsed (c : Capture) (i : LineNo) (l : Line) : (c.setLine i l).elapsed = c.elapsed := rfl
@[simp] theorem Capture.setLine_syncLevel (c : Capture) (i : LineNo) (l : Line) : (c.setLine i l).syncLevel = c.syncLevel := rfl
@[simp] theorem Capture.setLine_timebase (c : Capture) (i : LineNo) (l : Line) : (c.setLine i l).timebase = c.timebase := rfl
@[simp] theorem Capture.setLine_staging (c : Capture) (i : LineNo) (l : Line) : (c.setLine i l).staging = c.staging := rfl
@[simp] theorem Capture.setLine_highWater (c : Capture) (i : LineNo) (l : Line) : (c.setLine i l).highWater = c.highWater := rfl
@[simp] theorem Capture.setLine_horizon (c : Capture) (i : LineNo) (l : Line) : (c.setLine i l).horizon = c.horizon := rfl
@[simp] theorem Capture.setLine_sequence (c : Capture) (i : LineNo) (l : Line) : (c.setLine i l).sequence = c.sequence := rfl
@[simp] theorem Capture.setLine_groups (c : Capture) (i : LineNo) (l : Line) : (c.setLine i l).groups = c.groups := rfl
@[simp] theorem Capture.setLine_tallies (c : Capture) (i : LineNo) (l : Line) : (c.setLine i l).tallies = c.tallies := rfl
@[simp] theorem Capture.setLine_archive (c : Capture) (i : LineNo) (l : Line) : (c.setLine i l).archive = c.archive := rfl
@[simp] theorem Capture.setLine_lines (c : Capture) (i : LineNo) (l : Line) : (c.setLine i l).lines = c.lines.set i.val l := rfl

@[simp] theorem Capture.recomputeHorizon_elapsed (c : Capture) : (c.recomputeHorizon ).elapsed = c.elapsed := rfl
@[simp] theorem Capture.recomputeHorizon_syncLevel (c : Capture) : (c.recomputeHorizon ).syncLevel = c.syncLevel := rfl
@[simp] theorem Capture.recomputeHorizon_lines (c : Capture) : (c.recomputeHorizon ).lines = c.lines := rfl
@[simp] theorem Capture.recomputeHorizon_timebase (c : Capture) : (c.recomputeHorizon ).timebase = c.timebase := rfl
@[simp] theorem Capture.recomputeHorizon_staging (c : Capture) : (c.recomputeHorizon ).staging = c.staging := rfl
@[simp] theorem Capture.recomputeHorizon_highWater (c : Capture) : (c.recomputeHorizon ).highWater = c.highWater := rfl
@[simp] theorem Capture.recomputeHorizon_sequence (c : Capture) : (c.recomputeHorizon ).sequence = c.sequence := rfl
@[simp] theorem Capture.recomputeHorizon_groups (c : Capture) : (c.recomputeHorizon ).groups = c.groups := rfl
@[simp] theorem Capture.recomputeHorizon_tallies (c : Capture) : (c.recomputeHorizon ).tallies = c.tallies := rfl
@[simp] theorem Capture.recomputeHorizon_archive (c : Capture) : (c.recomputeHorizon ).archive = c.archive := rfl
@[simp] theorem Capture.recomputeHorizon_horizon (c : Capture)  : (c.recomputeHorizon ).horizon = largestDebounce c.lines + Config.releaseMargin := rfl

@[simp] theorem Capture.onTimebase_elapsed (c : Capture) (f : Timebase → Timebase) : (c.onTimebase f).elapsed = c.elapsed := rfl
@[simp] theorem Capture.onTimebase_syncLevel (c : Capture) (f : Timebase → Timebase) : (c.onTimebase f).syncLevel = c.syncLevel := rfl
@[simp] theorem Capture.onTimebase_lines (c : Capture) (f : Timebase → Timebase) : (c.onTimebase f).lines = c.lines := rfl
@[simp] theorem Capture.onTimebase_staging (c : Capture) (f : Timebase → Timebase) : (c.onTimebase f).staging = c.staging := rfl
@[simp] theorem Capture.onTimebase_highWater (c : Capture) (f : Timebase → Timebase) : (c.onTimebase f).highWater = c.highWater := rfl
@[simp] theorem Capture.onTimebase_horizon (c : Capture) (f : Timebase → Timebase) : (c.onTimebase f).horizon = c.horizon := rfl
@[simp] theorem Capture.onTimebase_sequence (c : Capture) (f : Timebase → Timebase) : (c.onTimebase f).sequence = c.sequence := rfl
@[simp] theorem Capture.onTimebase_groups (c : Capture) (f : Timebase → Timebase) : (c.onTimebase f).groups = c.groups := rfl
@[simp] theorem Capture.onTimebase_tallies (c : Capture) (f : Timebase → Timebase) : (c.onTimebase f).tallies = c.tallies := rfl
@[simp] theorem Capture.onTimebase_archive (c : Capture) (f : Timebase → Timebase) : (c.onTimebase f).archive = c.archive := rfl
@[simp] theorem Capture.onTimebase_timebase (c : Capture) (f : Timebase → Timebase) : (c.onTimebase f).timebase = f c.timebase := rfl

@[simp] theorem Capture.configureGroup_elapsed (c : Capture) (g : GroupNo) (x : Group) : (c.configureGroup g x).elapsed = c.elapsed := rfl
@[simp] theorem Capture.configureGroup_syncLevel (c : Capture) (g : GroupNo) (x : Group) : (c.configureGroup g x).syncLevel = c.syncLevel := rfl
@[simp] theorem Capture.configureGroup_lines (c : Capture) (g : GroupNo) (x : Group) : (c.configureGroup g x).lines = c.lines := rfl
@[simp] theorem Capture.configureGroup_timebase (c : Capture) (g : GroupNo) (x : Group) : (c.configureGroup g x).timebase = c.timebase := rfl
@[simp] theorem Capture.configureGroup_staging (c : Capture) (g : GroupNo) (x : Group) : (c.configureGroup g x).staging = c.staging := rfl
@[simp] theorem Capture.configureGroup_highWater (c : Capture) (g : GroupNo) (x : Group) : (c.configureGroup g x).highWater = c.highWater := rfl
@[simp] theorem Capture.configureGroup_horizon (c : Capture) (g : GroupNo) (x : Group) : (c.configureGroup g x).horizon = c.horizon := rfl
@[simp] theorem Capture.configureGroup_sequence (c : Capture) (g : GroupNo) (x : Group) : (c.configureGroup g x).sequence = c.sequence := rfl
@[simp] theorem Capture.configureGroup_tallies (c : Capture) (g : GroupNo) (x : Group) : (c.configureGroup g x).tallies = c.tallies := rfl
@[simp] theorem Capture.configureGroup_archive (c : Capture) (g : GroupNo) (x : Group) : (c.configureGroup g x).archive = c.archive := rfl
@[simp] theorem Capture.configureGroup_groups (c : Capture) (g : GroupNo) (x : Group) : (c.configureGroup g x).groups = c.groups.set g.val x := rfl

@[simp] theorem Capture.clearStatistics_elapsed (c : Capture) : (c.clearStatistics ).elapsed = c.elapsed := by simp only [Capture.clearStatistics]
@[simp] theorem Capture.clearStatistics_syncLevel (c : Capture) : (c.clearStatistics ).syncLevel = c.syncLevel := by simp only [Capture.clearStatistics]
@[simp] theorem Capture.clearStatistics_timebase (c : Capture) : (c.clearStatistics ).timebase = c.timebase := by simp only [Capture.clearStatistics]
@[simp] theorem Capture.clearStatistics_staging (c : Capture) : (c.clearStatistics ).staging = c.staging := by simp only [Capture.clearStatistics]
@[simp] theorem Capture.clearStatistics_horizon (c : Capture) : (c.clearStatistics ).horizon = c.horizon := by simp only [Capture.clearStatistics]
@[simp] theorem Capture.clearStatistics_sequence (c : Capture) : (c.clearStatistics ).sequence = c.sequence := by simp only [Capture.clearStatistics]
@[simp] theorem Capture.clearStatistics_groups (c : Capture) : (c.clearStatistics ).groups = c.groups := by simp only [Capture.clearStatistics]
@[simp] theorem Capture.clearStatistics_tallies (c : Capture) : (c.clearStatistics ).tallies = c.tallies := by simp only [Capture.clearStatistics]
@[simp] theorem Capture.clearStatistics_archive (c : Capture) : (c.clearStatistics ).archive = c.archive := by simp only [Capture.clearStatistics]
@[simp] theorem Capture.clearStatistics_highWater (c : Capture)  : (c.clearStatistics ).highWater = 0 := by simp only [Capture.clearStatistics]

@[simp] theorem Capture.insert_elapsed (c : Capture) (e : Entry) : (c.insert e).elapsed = c.elapsed := by simp only [Capture.insert]
@[simp] theorem Capture.insert_syncLevel (c : Capture) (e : Entry) : (c.insert e).syncLevel = c.syncLevel := by simp only [Capture.insert]
@[simp] theorem Capture.insert_lines (c : Capture) (e : Entry) : (c.insert e).lines = c.lines := by simp only [Capture.insert]
@[simp] theorem Capture.insert_timebase (c : Capture) (e : Entry) : (c.insert e).timebase = c.timebase := by simp only [Capture.insert]
@[simp] theorem Capture.insert_horizon (c : Capture) (e : Entry) : (c.insert e).horizon = c.horizon := by simp only [Capture.insert]
@[simp] theorem Capture.insert_sequence (c : Capture) (e : Entry) : (c.insert e).sequence = c.sequence := by simp only [Capture.insert]
@[simp] theorem Capture.insert_groups (c : Capture) (e : Entry) : (c.insert e).groups = c.groups := by simp only [Capture.insert]
@[simp] theorem Capture.insert_tallies (c : Capture) (e : Entry) : (c.insert e).tallies = c.tallies := by simp only [Capture.insert]
@[simp] theorem Capture.insert_archive (c : Capture) (e : Entry) : (c.insert e).archive = c.archive := by simp only [Capture.insert]
@[simp] theorem Capture.insert_staging (c : Capture) (e : Entry) : (c.insert e).staging = insertByKey e c.staging := by simp only [Capture.insert]
@[simp] theorem Capture.insert_highWater (c : Capture) (e : Entry) : (c.insert e).highWater = max c.highWater (c.staging.length + 1) := by simp only [Capture.insert]

@[simp] theorem Capture.countShed_elapsed (c : Capture) (e : Entry) : (c.countShed e).elapsed = c.elapsed := rfl
@[simp] theorem Capture.countShed_syncLevel (c : Capture) (e : Entry) : (c.countShed e).syncLevel = c.syncLevel := rfl
@[simp] theorem Capture.countShed_timebase (c : Capture) (e : Entry) : (c.countShed e).timebase = c.timebase := rfl
@[simp] theorem Capture.countShed_staging (c : Capture) (e : Entry) : (c.countShed e).staging = c.staging := rfl
@[simp] theorem Capture.countShed_highWater (c : Capture) (e : Entry) : (c.countShed e).highWater = c.highWater := rfl
@[simp] theorem Capture.countShed_horizon (c : Capture) (e : Entry) : (c.countShed e).horizon = c.horizon := rfl
@[simp] theorem Capture.countShed_sequence (c : Capture) (e : Entry) : (c.countShed e).sequence = c.sequence := rfl
@[simp] theorem Capture.countShed_groups (c : Capture) (e : Entry) : (c.countShed e).groups = c.groups := rfl
@[simp] theorem Capture.countShed_archive (c : Capture) (e : Entry) : (c.countShed e).archive = c.archive := rfl
@[simp] theorem Capture.countShed_tallies (c : Capture) (e : Entry) : (c.countShed e).tallies = c.tallies.set e.ring.val ((c.tally e.ring).add e.cls) := rfl

@[simp] theorem Capture.release_elapsed (c : Capture) (n : RingNo) (e : Entry) : (c.release n e).elapsed = c.elapsed := rfl
@[simp] theorem Capture.release_syncLevel (c : Capture) (n : RingNo) (e : Entry) : (c.release n e).syncLevel = c.syncLevel := rfl
@[simp] theorem Capture.release_lines (c : Capture) (n : RingNo) (e : Entry) : (c.release n e).lines = c.lines := rfl
@[simp] theorem Capture.release_timebase (c : Capture) (n : RingNo) (e : Entry) : (c.release n e).timebase = c.timebase := rfl
@[simp] theorem Capture.release_highWater (c : Capture) (n : RingNo) (e : Entry) : (c.release n e).highWater = c.highWater := rfl
@[simp] theorem Capture.release_horizon (c : Capture) (n : RingNo) (e : Entry) : (c.release n e).horizon = c.horizon := rfl
@[simp] theorem Capture.release_groups (c : Capture) (n : RingNo) (e : Entry) : (c.release n e).groups = c.groups := rfl
@[simp] theorem Capture.release_sequence (c : Capture) (n : RingNo) (e : Entry) : (c.release n e).sequence = c.sequence + 1 := rfl
@[simp] theorem Capture.release_archive (c : Capture) (n : RingNo) (e : Entry) : (c.release n e).archive = c.archive.append c.sequence (c.releasedRecord n e).archived := rfl

/-! ### A session's host side -/

@[simp] theorem Attached.makeDue_commandRing (h : Attached) (w : WriteSource) (a : BitVec 64) (d : List Byte) (now : Nat) : (h.makeDue w a d now).commandRing = h.commandRing := rfl
@[simp] theorem Attached.makeDue_completionRing (h : Attached) (w : WriteSource) (a : BitVec 64) (d : List Byte) (now : Nat) : (h.makeDue w a d now).completionRing = h.completionRing := rfl
@[simp] theorem Attached.makeDue_eventRings (h : Attached) (w : WriteSource) (a : BitVec 64) (d : List Byte) (now : Nat) : (h.makeDue w a d now).eventRings = h.eventRings := rfl
@[simp] theorem Attached.makeDue_systemRing (h : Attached) (w : WriteSource) (a : BitVec 64) (d : List Byte) (now : Nat) : (h.makeDue w a d now).systemRing = h.systemRing := rfl
@[simp] theorem Attached.makeDue_vectors (h : Attached) (w : WriteSource) (a : BitVec 64) (d : List Byte) (now : Nat) : (h.makeDue w a d now).vectors = h.vectors := rfl
@[simp] theorem Attached.makeDue_command (h : Attached) (w : WriteSource) (a : BitVec 64) (d : List Byte) (now : Nat) : (h.makeDue w a d now).command = h.command := rfl
@[simp] theorem Attached.makeDue_archiveEngine (h : Attached) (w : WriteSource) (a : BitVec 64) (d : List Byte) (now : Nat) : (h.makeDue w a d now).archiveEngine = h.archiveEngine := rfl
@[simp] theorem Attached.makeDue_due (h : Attached) (w : WriteSource) (a : BitVec 64) (d : List Byte) (now : Nat) : (h.makeDue w a d now).due = h.due ++ [{ source := w, address := a, data := d, dueAt := now }] := rfl

@[simp] theorem Attached.setVector_commandRing (h : Attached) (v : VectorNo) (n : NotifyVector) : (h.setVector v n).commandRing = h.commandRing := rfl
@[simp] theorem Attached.setVector_completionRing (h : Attached) (v : VectorNo) (n : NotifyVector) : (h.setVector v n).completionRing = h.completionRing := rfl
@[simp] theorem Attached.setVector_eventRings (h : Attached) (v : VectorNo) (n : NotifyVector) : (h.setVector v n).eventRings = h.eventRings := rfl
@[simp] theorem Attached.setVector_systemRing (h : Attached) (v : VectorNo) (n : NotifyVector) : (h.setVector v n).systemRing = h.systemRing := rfl
@[simp] theorem Attached.setVector_command (h : Attached) (v : VectorNo) (n : NotifyVector) : (h.setVector v n).command = h.command := rfl
@[simp] theorem Attached.setVector_archiveEngine (h : Attached) (v : VectorNo) (n : NotifyVector) : (h.setVector v n).archiveEngine = h.archiveEngine := rfl
@[simp] theorem Attached.setVector_due (h : Attached) (v : VectorNo) (n : NotifyVector) : (h.setVector v n).due = h.due := rfl
@[simp] theorem Attached.setVector_vectors (h : Attached) (v : VectorNo) (n : NotifyVector) : (h.setVector v n).vectors = h.vectors.set v.val n := rfl

@[simp] theorem Attached.send_commandRing (h : Attached) (v : VectorNo) (now : Nat) : (h.send v now).commandRing = h.commandRing := rfl
@[simp] theorem Attached.send_completionRing (h : Attached) (v : VectorNo) (now : Nat) : (h.send v now).completionRing = h.completionRing := rfl
@[simp] theorem Attached.send_eventRings (h : Attached) (v : VectorNo) (now : Nat) : (h.send v now).eventRings = h.eventRings := rfl
@[simp] theorem Attached.send_systemRing (h : Attached) (v : VectorNo) (now : Nat) : (h.send v now).systemRing = h.systemRing := rfl
@[simp] theorem Attached.send_command (h : Attached) (v : VectorNo) (now : Nat) : (h.send v now).command = h.command := rfl
@[simp] theorem Attached.send_archiveEngine (h : Attached) (v : VectorNo) (now : Nat) : (h.send v now).archiveEngine = h.archiveEngine := rfl

@[simp] theorem Attached.handCompletion_commandRing (h : Attached) (c : Completion) (now : Nat) : (h.handCompletion c now).commandRing = h.commandRing := rfl
@[simp] theorem Attached.handCompletion_eventRings (h : Attached) (c : Completion) (now : Nat) : (h.handCompletion c now).eventRings = h.eventRings := rfl
@[simp] theorem Attached.handCompletion_systemRing (h : Attached) (c : Completion) (now : Nat) : (h.handCompletion c now).systemRing = h.systemRing := rfl
@[simp] theorem Attached.handCompletion_vectors (h : Attached) (c : Completion) (now : Nat) : (h.handCompletion c now).vectors = h.vectors := rfl
@[simp] theorem Attached.handCompletion_command (h : Attached) (c : Completion) (now : Nat) : (h.handCompletion c now).command = h.command := rfl
@[simp] theorem Attached.handCompletion_archiveEngine (h : Attached) (c : Completion) (now : Nat) : (h.handCompletion c now).archiveEngine = h.archiveEngine := rfl
@[simp] theorem Attached.handCompletion_completionRing (h : Attached) (c : Completion) (now : Nat) : (h.handCompletion c now).completionRing = h.completionRing.claim := rfl

/-! ### The whole state -/

@[simp] theorem State.onCapture_host (s : State) (f : Capture → Capture) : (s.onCapture f).host = s.host := rfl
@[simp] theorem State.onCapture_link (s : State) (f : Capture → Capture) : (s.onCapture f).link = s.link := rfl
@[simp] theorem State.onCapture_pending (s : State) (f : Capture → Capture) : (s.onCapture f).pending = s.pending := rfl
@[simp] theorem State.onCapture_reads (s : State) (f : Capture → Capture) : (s.onCapture f).reads = s.reads := rfl
@[simp] theorem State.onCapture_capture (s : State) (f : Capture → Capture) : (s.onCapture f).capture = f s.capture := rfl

@[simp] theorem State.withHost_capture (s : State) (h : Attached) : (s.withHost h).capture = s.capture := rfl
@[simp] theorem State.withHost_link (s : State) (h : Attached) : (s.withHost h).link = s.link := rfl
@[simp] theorem State.withHost_pending (s : State) (h : Attached) : (s.withHost h).pending = s.pending := rfl
@[simp] theorem State.withHost_reads (s : State) (h : Attached) : (s.withHost h).reads = s.reads := rfl


@[simp] theorem State.withHost_initAddrLo (s : State) (h : Attached) : (s.withHost h).host.initAddrLo = s.host.initAddrLo := rfl
@[simp] theorem State.withHost_initAddrHi (s : State) (h : Attached) : (s.withHost h).host.initAddrHi = s.host.initAddrHi := rfl
@[simp] theorem State.withHost_faultCode (s : State) (h : Attached) : (s.withHost h).host.faultCode = s.host.faultCode := rfl
@[simp] theorem State.withHost_initFieldIndex (s : State) (h : Attached) : (s.withHost h).host.initFieldIndex = s.host.initFieldIndex := rfl
@[simp] theorem State.withHost_faultNotifyFailed (s : State) (h : Attached) : (s.withHost h).host.faultNotifyFailed = s.host.faultNotifyFailed := rfl
@[simp] theorem State.withHost_resetCause (s : State) (h : Attached) : (s.withHost h).host.resetCause = s.host.resetCause := rfl
@[simp] theorem State.withHost_session (s : State) (h : Attached) : (s.withHost h).host.session = .attached h := rfl
@[simp] theorem State.withHost_withHost (s : State) (h g : Attached) : (s.withHost h).withHost g = s.withHost g := rfl

@[simp] theorem State.detach_capture (s : State) : s.detach.capture = s.capture := rfl
@[simp] theorem State.warmReset_capture (s : State) (k : ResetCause) : (s.warmReset k).capture = s.capture := rfl
@[simp] theorem State.detach_link (s : State) : s.detach.link = s.link := rfl
@[simp] theorem State.warmReset_link (s : State) (k : ResetCause) : (s.warmReset k).link = s.link := rfl
@[simp] theorem State.detach_pending (s : State) : s.detach.pending = s.pending := rfl
@[simp] theorem State.detach_reads (s : State) : s.detach.reads = s.reads := rfl
@[simp] theorem State.warmReset_pending (s : State) (k : ResetCause) : (s.warmReset k).pending = s.pending := rfl
@[simp] theorem State.warmReset_reads (s : State) (k : ResetCause) : (s.warmReset k).reads = s.reads := rfl
@[simp] theorem State.detach_session (s : State) : s.detach.host.session = .detached := rfl
@[simp] theorem State.warmReset_host (s : State) (k : ResetCause) : (s.warmReset k).host = HostSide.afterReset k := rfl

/-! ### Line `i` of an updated capture side -/

theorem Capture.line_setLine (c : Capture) (i j : LineNo) (l : Line) :
    (c.setLine i l).line j = if j = i then l else c.line j := by
  simp only [Capture.line, Capture.setLine, Vector.get_eq_getElem, Vector.getElem_set, Fin.ext_iff, eq_comm]

@[simp] theorem Capture.line_setLine_same (c : Capture) (i : LineNo) (l : Line) : (c.setLine i l).line i = l := by
  simp [Capture.line_setLine]

theorem Capture.line_setLine_other (c : Capture) {i j : LineNo} (l : Line) (h : j ≠ i) :
    (c.setLine i l).line j = c.line j := by
  simp [Capture.line_setLine, h]

theorem Capture.line_countShed (c : Capture) (e : Entry) (i : LineNo) :
    (c.countShed e).line i =
      if e.line = some i then { c.line i with shedCount := satInc (c.line i).shedCount } else c.line i := by
  unfold Capture.countShed Capture.line
  cases h : e.line with
  | none => simp
  | some j =>
    simp only [Vector.get_eq_getElem, Vector.getElem_set, Option.some.injEq, Fin.ext_iff]
    split
    · rename_i hj
      have : j = i := Fin.ext hj
      subst this
      simp
    · simp

theorem Capture.tally_countShed (c : Capture) (e : Entry) (n : RingNo) :
    (c.countShed e).tally n = if n = e.ring then (c.tally n).add e.cls else c.tally n := by
  simp only [Capture.tally, Capture.countShed, Vector.get_eq_getElem, Vector.getElem_set, Fin.ext_iff, eq_comm]
  split
  · rename_i h
    simp [← h]
  · rfl

@[simp] theorem Capture.line_onTimebase (c : Capture) (f : Timebase → Timebase) (i : LineNo) :
    (c.onTimebase f).line i = c.line i := rfl

@[simp] theorem Capture.line_insert (c : Capture) (e : Entry) (i : LineNo) : (c.insert e).line i = c.line i := rfl

@[simp] theorem Capture.line_release (c : Capture) (n : RingNo) (e : Entry) (i : LineNo) :
    (c.release n e).line i = c.line i := rfl

@[simp] theorem Capture.line_recomputeHorizon (c : Capture) (i : LineNo) : c.recomputeHorizon.line i = c.line i := rfl

@[simp] theorem Capture.line_configureGroup (c : Capture) (g : GroupNo) (x : Group) (i : LineNo) :
    (c.configureGroup g x).line i = c.line i := rfl

@[simp] theorem Capture.stamp_setLine (c : Capture) (i : LineNo) (l : Line) : (c.setLine i l).stamp = c.stamp := rfl

@[simp] theorem Capture.tally_setLine (c : Capture) (i : LineNo) (l : Line) (n : RingNo) :
    (c.setLine i l).tally n = c.tally n := rfl

theorem Capture.setLine_setLine (c : Capture) (i : LineNo) (l m : Line) :
    (c.setLine i l).setLine i m = c.setLine i m := by
  simp [Capture.setLine]

theorem Capture.line_clearStatistics (c : Capture) (i : LineNo) :
    c.clearStatistics.line i =
      { c.line i with glitchCount := 0, transitionCount := 0, shedCount := 0, episodeCount := 0 } := by
  simp [Capture.clearStatistics, Capture.line, Vector.get_eq_getElem]

theorem Capture.groupOf_configureGroup (c : Capture) (g : GroupNo) (x : Group) (i : LineNo) :
    (c.configureGroup g x).groupOf i = if (c.line i).config.group = g then x else c.groupOf i := by
  simp only [Capture.groupOf, Capture.configureGroup, Capture.line, Vector.get_eq_getElem, Vector.getElem_set, Fin.ext_iff,
    eq_comm]

/-! ### The host side of an updated state -/

theorem Attached.vector_setVector (h : Attached) (v w : VectorNo) (n : NotifyVector) :
    (h.setVector v n).vector w = if w = v then n else h.vector w := by
  simp only [Attached.vector, Attached.setVector, Vector.get_eq_getElem, Vector.getElem_set, Fin.ext_iff, eq_comm]

@[simp] theorem Attached.vector_makeDue (h : Attached) (x : WriteSource) (a : BitVec 64) (d : List Byte) (now : Nat)
    (v : VectorNo) : (h.makeDue x a d now).vector v = h.vector v := rfl

@[simp] theorem Attached.eventRing_makeDue (h : Attached) (x : WriteSource) (a : BitVec 64) (d : List Byte) (now : Nat)
    (n : RingNo) : (h.makeDue x a d now).eventRing n = h.eventRing n := rfl

@[simp] theorem Attached.vector_handCompletion (h : Attached) (c : Completion) (now : Nat) (v : VectorNo) :
    (h.handCompletion c now).vector v = h.vector v := rfl

@[simp] theorem Attached.eventRing_handCompletion (h : Attached) (c : Completion) (now : Nat) (n : RingNo) :
    (h.handCompletion c now).eventRing n = h.eventRing n := rfl

@[simp] theorem Attached.eventRing_setVector (h : Attached) (v : VectorNo) (x : NotifyVector) (n : RingNo) :
    (h.setVector v x).eventRing n = h.eventRing n := rfl

theorem State.onHost_attached (s : State) (f : Attached → Attached) {h : Attached} (hs : s.host.session = .attached h) :
    s.onHost f = s.withHost (f h) := by
  simp [State.onHost, hs]

theorem State.onHost_other (s : State) (f : Attached → Attached) (hs : ∀ h, s.host.session ≠ .attached h) :
    s.onHost f = s := by
  unfold State.onHost
  split
  · exact absurd (by assumption) (hs _)
  all_goals rfl

/-- Everything a change of the session's host side can do: within ATTACHED it replaces it, otherwise nothing. -/
theorem State.onHost_cases (s : State) (f : Attached → Attached) :
    (∃ h, s.host.session = .attached h ∧ s.onHost f = s.withHost (f h)) ∨
    ((∀ h, s.host.session ≠ .attached h) ∧ s.onHost f = s) := by
  by_cases hs : ∃ h, s.host.session = .attached h
  · obtain ⟨h, hs⟩ := hs
    exact .inl ⟨h, hs, s.onHost_attached f hs⟩
  · have hs' : ∀ h, s.host.session ≠ .attached h := fun h hh => hs ⟨h, hh⟩
    exact .inr ⟨hs', s.onHost_other f hs'⟩

@[simp] theorem State.onHost_capture (s : State) (f : Attached → Attached) : (s.onHost f).capture = s.capture := by
  obtain ⟨h, -, e⟩ | ⟨-, e⟩ := s.onHost_cases f <;> simp [e]

@[simp] theorem State.onHost_link (s : State) (f : Attached → Attached) : (s.onHost f).link = s.link := by
  obtain ⟨h, -, e⟩ | ⟨-, e⟩ := s.onHost_cases f <;> simp [e]

@[simp] theorem State.onHost_pending (s : State) (f : Attached → Attached) : (s.onHost f).pending = s.pending := by
  obtain ⟨h, -, e⟩ | ⟨-, e⟩ := s.onHost_cases f <;> simp [e]

@[simp] theorem State.onHost_reads (s : State) (f : Attached → Attached) : (s.onHost f).reads = s.reads := by
  obtain ⟨h, -, e⟩ | ⟨-, e⟩ := s.onHost_cases f <;> simp [e]

@[simp] theorem State.onCapture_host_session (s : State) (f : Capture → Capture) :
    (s.onCapture f).host.session = s.host.session := rfl

end Sys2Proof.Machine
end

