-- ==== Sys2Proof/Laws/Staging.lean ====
section
/-! SUPPORT. What handing a record to the staging queue does, once: the insertion in key order, the shedding decision, and what it
leaves as it was. -/

namespace Sys2Proof.Machine

/-! ### The release key (R59) -/

theorem lineCode_toNat (o : Option LineNo) : (lineCode o).toNat = match o with
    | some i => i.val
    | none => 255 := by
  cases o with
  | none => rfl
  | some i =>
    have : i.val < 256 := by omega
    simp [lineCode, Nat.mod_eq_of_lt this]

/-- The comparison of the model is the lexicographic order of the release key. -/
theorem Entry.keyLe_iff (a b : Entry) : a.keyLe b = true ↔ a.releaseKey ≤ b.releaseKey := by
  unfold Entry.keyLe Entry.releaseKey Entry.lineField
  simp only [Prod.Lex.toLex_le_toLex, lineCode_toNat, BitVec.toNat_inj]
  split
  · rename_i h
    simp [h]
  · rename_i h
    simp only [ne_eq, Decidable.not_not] at h
    simp only [h, lt_self_iff_false, false_or, true_and]
    split
    · rename_i h
      simp [h]
    · rename_i h
      simp only [ne_eq, Decidable.not_not] at h
      simp only [h, lt_self_iff_false, false_or, true_and]
      split
      · rename_i h
        simp [h]
      · rename_i h
        simp only [ne_eq, Decidable.not_not] at h
        simp only [h, lt_self_iff_false, false_or, true_and, decide_eq_true_eq] <;>
          (cases a.line <;> cases b.line <;> rfl)

theorem Entry.keyLe_total (a b : Entry) : a.keyLe b = true ∨ b.keyLe a = true := by
  simp only [Entry.keyLe_iff]
  exact le_total _ _

theorem Entry.keyLe_trans {a b c : Entry} (h : a.keyLe b = true) (k : b.keyLe c = true) : a.keyLe c = true := by
  rw [Entry.keyLe_iff] at *
  exact le_trans h k

theorem Entry.keyLt_iff (a b : Entry) : ¬ a.keyLe b = true ↔ b.releaseKey < a.releaseKey := by
  rw [Entry.keyLe_iff, not_le]

/-! ### Insertion (R61) -/

/-- An insertion splits the queue: what is before the new entry and what is after it. -/
theorem insertByKey_split (e : Entry) (q : List Entry) :
    ∃ before after, q = before ++ after ∧ insertByKey e q = before ++ e :: after ∧
      (∀ x ∈ before, x.keyLe e = true) ∧ (∀ x y, after = x :: y → ¬ x.keyLe e = true) := by
  induction q with
  | nil => exact ⟨[], [], rfl, rfl, by simp, by simp⟩
  | cons x q ih =>
    by_cases h : x.keyLe e = true
    · obtain ⟨before, after, hq, hi, hb, ha⟩ := ih
      refine ⟨x :: before, after, by simp [hq], by simp [insertByKey, h, hi], ?_, ha⟩
      intro y hy
      rcases List.mem_cons.mp hy with rfl | hy
      · exact h
      · exact hb y hy
    · refine ⟨[], x :: q, rfl, by simp [insertByKey, h], by simp, ?_⟩
      intro y z hy
      injection hy with h1 h2
      subst h1
      exact h

theorem insertByKey_perm (e : Entry) (q : List Entry) : (insertByKey e q).Perm (e :: q) := by
  obtain ⟨before, after, hq, hi, -, -⟩ := insertByKey_split e q
  rw [hi, hq]
  exact List.perm_middle

@[simp] theorem insertByKey_length (e : Entry) (q : List Entry) : (insertByKey e q).length = q.length + 1 := by
  simpa using (insertByKey_perm e q).length_eq

@[simp] theorem mem_insertByKey (e x : Entry) (q : List Entry) : x ∈ insertByKey e q ↔ x = e ∨ x ∈ q := by
  rw [(insertByKey_perm e q).mem_iff, List.mem_cons]

theorem lineRecords_perm {q r : List Entry} (h : q.Perm r) : lineRecords q = lineRecords r :=
  (h.filter _).length_eq

theorem lineRecords_insertByKey (e : Entry) (q : List Entry) :
    lineRecords (insertByKey e q) = lineRecords q + (if e.isLineRecord = true then 1 else 0) := by
  rw [lineRecords_perm (insertByKey_perm e q)]
  unfold lineRecords
  rw [List.filter_cons]
  split <;> simp

/-- An insertion into a queue in key order keeps the order. -/
theorem insertByKey_sorted (e : Entry) {q : List Entry} (h : q.Pairwise fun a b => a.keyLe b = true) :
    (insertByKey e q).Pairwise fun a b => a.keyLe b = true := by
  induction q with
  | nil => simp [insertByKey]
  | cons x q ih =>
    rw [List.pairwise_cons] at h
    unfold insertByKey
    split
    · rename_i hx
      rw [List.pairwise_cons]
      refine ⟨fun y hy => ?_, ih h.2⟩
      rcases (mem_insertByKey e y q).mp hy with rfl | hy
      · exact hx
      · exact h.1 y hy
    · rename_i hx
      have he : e.keyLe x = true := (Entry.keyLe_total e x).resolve_right hx
      rw [List.pairwise_cons, List.pairwise_cons]
      refine ⟨fun y hy => ?_, h⟩
      rcases List.mem_cons.mp hy with rfl | hy
      · exact he
      · exact Entry.keyLe_trans he (h.1 y hy)

/-! ### The shedding decision (R83, R84) -/

/-- Where no lowest class is found, no line record is held. -/
theorem lowestClass_eq_none {q : List Entry} (h : lowestClass q = none) : ∀ x ∈ q, x.cls = none := by
  induction q with
  | nil => simp
  | cons e q ih =>
    simp only [lowestClass] at h
    cases he : e.cls with
    | none =>
      rw [he] at h
      intro x hx
      rcases List.mem_cons.mp hx with rfl | hx
      · exact he
      · exact ih h x hx
    | some c =>
      rw [he] at h
      cases hq : lowestClass q <;> rw [hq] at h <;> simp at h

/-- The lowest class among the held line records is held, and is no greater than any. -/
theorem lowestClass_eq_some {q : List Entry} {k : ClassNo} (h : lowestClass q = some k) :
    (∃ x ∈ q, x.cls = some k) ∧ ∀ x ∈ q, ∀ m, x.cls = some m → k ≤ m := by
  induction q generalizing k with
  | nil => simp [lowestClass] at h
  | cons e q ih =>
    simp only [lowestClass] at h
    cases he : e.cls with
    | none =>
      rw [he] at h
      have h' : lowestClass q = some k := h
      obtain ⟨⟨x, hx, hk⟩, hall⟩ := ih h'
      refine ⟨⟨x, List.mem_cons_of_mem _ hx, hk⟩, ?_⟩
      intro y hy m hm
      rcases List.mem_cons.mp hy with rfl | hy
      · rw [he] at hm
        cases hm
      · exact hall y hy m hm
    | some c =>
      rw [he] at h
      cases hq : lowestClass q with
      | none =>
        rw [hq] at h
        simp only [Option.some.injEq] at h
        subst h
        refine ⟨⟨e, List.mem_cons_self, he⟩, ?_⟩
        intro y hy m hm
        rcases List.mem_cons.mp hy with rfl | hy
        · rw [he] at hm
          exact le_of_eq (Option.some.inj hm)
        · rw [lowestClass_eq_none hq y hy] at hm
          cases hm
      | some d =>
        rw [hq] at h
        simp only [Option.some.injEq] at h
        obtain ⟨⟨x, hx, hk⟩, hall⟩ := ih hq
        by_cases hle : c ≤ d
        · rw [if_pos hle] at h
          subst h
          refine ⟨⟨e, List.mem_cons_self, he⟩, ?_⟩
          intro y hy m hm
          rcases List.mem_cons.mp hy with rfl | hy
          · rw [he] at hm
            exact le_of_eq (Option.some.inj hm)
          · exact le_trans hle (hall y hy m hm)
        · rw [if_neg hle] at h
          subst h
          refine ⟨⟨x, List.mem_cons_of_mem _ hx, hk⟩, ?_⟩
          intro y hy m hm
          rcases List.mem_cons.mp hy with rfl | hy
          · rw [he] at hm
            exact (Option.some.inj hm) ▸ le_of_lt (lt_of_not_ge hle)
          · exact hall y hy m hm

/-- The record taken is the last of its class, and the rest is the queue without it. -/
theorem takeLastOfClass_eq_some {k : ClassNo} {q : List Entry} {v : Entry} {rest : List Entry}
    (h : takeLastOfClass k q = some (v, rest)) :
    ∃ before after, q = before ++ v :: after ∧ rest = before ++ after ∧ v.cls = some k ∧ ∀ x ∈ after, x.cls ≠ some k := by
  induction q generalizing v rest with
  | nil => simp [takeLastOfClass] at h
  | cons e q ih =>
    simp only [takeLastOfClass] at h
    cases hq : takeLastOfClass k q with
    | some p =>
      obtain ⟨w, r⟩ := p
      rw [hq] at h
      simp only [Option.some.injEq, Prod.mk.injEq] at h
      obtain ⟨rfl, rfl⟩ := h
      obtain ⟨before, after, h1, h2, h3, h4⟩ := ih hq
      exact ⟨e :: before, after, by simp [h1], by simp [h2], h3, h4⟩
    | none =>
      rw [hq] at h
      simp only at h
      split at h
      · rename_i hc
        simp only [Option.some.injEq, Prod.mk.injEq] at h
        obtain ⟨rfl, rfl⟩ := h
        refine ⟨[], q, rfl, rfl, hc, ?_⟩
        clear ih
        induction q with
        | nil => simp
        | cons z q ihz =>
          simp only [takeLastOfClass] at hq
          cases hz : takeLastOfClass k q with
          | some p => rw [hz] at hq; simp at hq
          | none =>
            rw [hz] at hq
            simp only at hq
            split at hq
            · simp at hq
            · rename_i hn
              intro x hx
              rcases List.mem_cons.mp hx with rfl | hx
              · exact hn
              · exact ihz hz x hx
      · simp at h

theorem takeLastOfClass_eq_none {k : ClassNo} {q : List Entry} (h : takeLastOfClass k q = none) :
    ∀ x ∈ q, x.cls ≠ some k := by
  induction q with
  | nil => simp
  | cons e q ih =>
    simp only [takeLastOfClass] at h
    cases hq : takeLastOfClass k q with
    | some p => rw [hq] at h; simp at h
    | none =>
      rw [hq] at h
      simp only at h
      split at h
      · simp at h
      · rename_i hn
        intro x hx
        rcases List.mem_cons.mp hx with rfl | hx
        · exact hn
        · exact ih hq x hx

/-- What the shedding decision is for a line record of class `k`: an eviction of the last held record of the lowest class, which is
below `k`, or a discard where no held record has a class below `k`. -/
theorem sheddingDecision_cases (e : Entry) (q : List Entry) {k : ClassNo} (he : e.cls = some k) :
    (∃ before victim after low, q = before ++ victim :: after ∧ victim.cls = some low ∧ low < k ∧
      (∀ x ∈ q, ∀ m, x.cls = some m → low ≤ m) ∧ (∀ x ∈ after, x.cls ≠ some low) ∧
      sheddingDecision e q = .evict victim (before ++ after)) ∨
    ((∀ x ∈ q, ∀ m, x.cls = some m → k ≤ m) ∧ sheddingDecision e q = .discard) := by
  unfold sheddingDecision
  rw [he]
  cases hl : lowestClass q with
  | none =>
    refine .inr ⟨?_, rfl⟩
    intro x hx m hm
    rw [lowestClass_eq_none hl x hx] at hm
    cases hm
  | some low =>
    obtain ⟨⟨w, hw, hwk⟩, hall⟩ := lowestClass_eq_some hl
    by_cases hlt : low < k
    · simp only [if_pos hlt]
      cases ht : takeLastOfClass low q with
      | none => exact absurd hwk (takeLastOfClass_eq_none ht w hw)
      | some p =>
        obtain ⟨victim, rest⟩ := p
        obtain ⟨before, after, h1, h2, h3, h4⟩ := takeLastOfClass_eq_some ht
        exact .inl ⟨before, victim, after, low, h1, h3, hlt, hall, h4, by rw [h2]⟩
    · simp only [if_neg hlt]
      exact .inr ⟨fun x hx m hm => le_trans (le_of_not_gt hlt) (hall x hx m hm), trivial⟩

/-! ### A record handed to the staging queue (R60, R61, R83) -/

/-- Everything handing a record to the staging queue can do: an insertion with room, an eviction with the insertion, or a
discard. -/
theorem Capture.stage_cases (c : Capture) (e : Entry) :
    ((e.isLineRecord = true → lineRecords c.staging < 504 ∧ c.staging.length < 512) ∧ c.stage e = (c.insert e, true)) ∨
    (e.isLineRecord = true ∧ ¬ (lineRecords c.staging < 504 ∧ c.staging.length < 512) ∧
      ((∃ victim rest, sheddingDecision e c.staging = .evict victim rest ∧
          c.stage e = ({ c.countShed victim with
            staging := insertByKey e rest }, true)) ∨
        (sheddingDecision e c.staging = .discard ∧ c.stage e = (c.countShed e, false)))) := by
  unfold Capture.stage
  by_cases he : e.isLineRecord = true
  · by_cases hf : lineRecords c.staging < 504 ∧ c.staging.length < 512
    · refine .inl ⟨fun _ => hf, ?_⟩
      simp [he, stagingFullForLine, hf.1, hf.2]
    · refine .inr ⟨he, hf, ?_⟩
      have : stagingFullForLine c.staging = true := by
        simp only [stagingFullForLine, Config.stagingLineEntries, Config.stagingEntries, Bool.not_eq_true',
          Bool.and_eq_false_iff, decide_eq_false_iff_not]
        omega
      simp only [he, this, Bool.and_self, if_true]
      cases hd : sheddingDecision e c.staging with
      | evict victim rest => exact .inl ⟨victim, rest, rfl, rfl⟩
      | discard => exact .inr ⟨rfl, rfl⟩
  · refine .inl ⟨fun h => absurd h he, ?_⟩
    simp [he]

/-- What handing a record to the staging queue leaves as it was. -/
theorem Capture.stage_frame (c : Capture) (e : Entry) :
    (c.stage e).1 = { c with
      staging := (c.stage e).1.staging, highWater := (c.stage e).1.highWater, tallies := (c.stage e).1.tallies
      lines := (c.stage e).1.lines } := by
  obtain ⟨-, h⟩ | ⟨-, -, ⟨v, r, -, h⟩ | ⟨-, h⟩⟩ := c.stage_cases e
  all_goals
    rw [h]
    simp only [Capture.insert, Capture.countShed]

@[simp] theorem Capture.stage_elapsed (c : Capture) (e : Entry) : (c.stage e).1.elapsed = c.elapsed := by
  rw [c.stage_frame e]

@[simp] theorem Capture.stage_syncLevel (c : Capture) (e : Entry) : (c.stage e).1.syncLevel = c.syncLevel := by
  rw [c.stage_frame e]

@[simp] theorem Capture.stage_timebase (c : Capture) (e : Entry) : (c.stage e).1.timebase = c.timebase := by
  rw [c.stage_frame e]

@[simp] theorem Capture.stage_horizon (c : Capture) (e : Entry) : (c.stage e).1.horizon = c.horizon := by
  rw [c.stage_frame e]

@[simp] theorem Capture.stage_sequence (c : Capture) (e : Entry) : (c.stage e).1.sequence = c.sequence := by
  rw [c.stage_frame e]

@[simp] theorem Capture.stage_groups (c : Capture) (e : Entry) : (c.stage e).1.groups = c.groups := by
  rw [c.stage_frame e]

@[simp] theorem Capture.stage_archive (c : Capture) (e : Entry) : (c.stage e).1.archive = c.archive := by
  rw [c.stage_frame e]

/-- A record handed to the staging queue may touch no part of a line but its shed count. -/
theorem Capture.stage_line (c : Capture) (e : Entry) (i : LineNo) : SameButShedCount (c.line i) ((c.stage e).1.line i) := by
  obtain ⟨-, h⟩ | ⟨-, -, ⟨v, r, -, h⟩ | ⟨-, h⟩⟩ := c.stage_cases e
  · rw [h]
    simp
  · rw [h]
    show SameButShedCount (c.line i) ((c.countShed v).line i)
    rw [Capture.line_countShed]
    split <;> simp
  · rw [h]
    show SameButShedCount (c.line i) ((c.countShed e).line i)
    rw [Capture.line_countShed]
    split <;> simp

/-- A record handed over where it is created leaves the same as one handed over. -/
theorem Capture.handedWhen_cases (created : Prop) [Decidable created] (e : Entry) (c : Capture) :
    (created ∧ c.handedWhen created e = (c.stage e).1) ∨ (¬ created ∧ c.handedWhen created e = c) := by
  unfold Capture.handedWhen
  by_cases h : created
  · exact .inl ⟨h, if_pos h⟩
  · exact .inr ⟨h, if_neg h⟩

/-- A staging entry after a record was handed over is the record, or was held before. -/
theorem Capture.mem_stage {c : Capture} {e x : Entry} (h : x ∈ (c.stage e).1.staging) : x = e ∨ x ∈ c.staging := by
  obtain ⟨-, hs⟩ | ⟨hl, -, ⟨v, r, hd, hs⟩ | ⟨-, hs⟩⟩ := c.stage_cases e
  · rw [hs] at h
    simpa using h
  · rw [hs] at h
    simp only [mem_insertByKey] at h
    obtain ⟨k, hk⟩ := Option.isSome_iff_exists.mp hl
    obtain ⟨b, w, a, low, h1, -, -, -, -, h6⟩ | ⟨-, h2⟩ := sheddingDecision_cases e c.staging hk
    · rw [h6] at hd
      injection hd with _ hr
      rcases h with h | h
      · exact .inl h
      · right
        rw [h1]
        rw [← hr] at h
        simp only [List.mem_append, List.mem_cons] at *
        tauto
    · rw [h2] at hd
      cases hd
  · rw [hs] at h
    exact .inr h

/-- Handing a record over keeps the staging queue sound, where a record without a class finds a free entry. -/
theorem Capture.stage_sound {c : Capture} {e : Entry} (h : StagingSound c) (room : e.cls = none → c.staging.length < 512) :
    StagingSound (c.stage e).1 := by
  obtain ⟨hsort, hlen, hrec, hmark⟩ := h
  obtain ⟨hr, hs⟩ | ⟨hl, hf, ⟨v, r, hd, hs⟩ | ⟨-, hs⟩⟩ := c.stage_cases e
  · rw [hs]
    have hlt : c.staging.length < 512 := by
      by_cases he : e.isLineRecord = true
      · exact (hr he).2
      · exact room (by simpa [Entry.isLineRecord] using he)
    refine ⟨insertByKey_sorted e hsort, ?_, ?_, ?_⟩
    · simp only [Capture.insert_staging, insertByKey_length]
      omega
    · simp only [Capture.insert_staging, lineRecords_insertByKey]
      split
      · rename_i he
        have := (hr he).1
        omega
      · omega
    · simp only [Capture.insert_highWater]
      omega
  · rw [hs]
    obtain ⟨k, hk⟩ := Option.isSome_iff_exists.mp hl
    obtain ⟨b, w, a, low, h1, hw, -, -, -, h6⟩ | ⟨-, h2⟩ := sheddingDecision_cases e c.staging hk
    · rw [h6] at hd
      injection hd with _ hr
      subst hr
      have hsub : (b ++ a).Sublist c.staging := by
        rw [h1]
        exact List.Sublist.append_left (List.sublist_cons_self _ _) _
      have hperm : c.staging.Perm (w :: (b ++ a)) := by
        rw [h1]
        exact List.perm_middle
      have hlen2 := hperm.length_eq
      have hrec2 := lineRecords_perm hperm
      have hw1 : lineRecords (w :: (b ++ a)) = lineRecords (b ++ a) + 1 := by
        simp [lineRecords, Entry.isLineRecord, hw]
      refine ⟨insertByKey_sorted e (hsort.sublist hsub), ?_, ?_, ?_⟩
      · show (insertByKey e (b ++ a)).length ≤ 512
        rw [insertByKey_length]
        simp only [List.length_cons] at hlen2
        omega
      · show lineRecords (insertByKey e (b ++ a)) ≤ 504
        rw [lineRecords_insertByKey, if_pos hl]
        omega
      · exact hmark
    · rw [h2] at hd
      cases hd
  · rw [hs]
    exact ⟨hsort, hlen, hrec, hmark⟩

end Sys2Proof.Machine
end

