-- ==== Sys2Proof/Laws/Lines.lean ====
section
/-! SUPPORT. What the qualifier, the chatter monitor, the counter bank and a reconfiguration do to the lines, once: the confirmation of
a transition, the frame of everything that acts on one line, and a reconfiguration of a sound line. -/

namespace Sys2Proof.Machine

/-! ### One line -/

/-- Replacing a line by itself changes nothing. -/
@[simp] theorem Capture.setLine_self (c : Capture) (i : LineNo) : c.setLine i (c.line i) = c := by
  have h : c.lines.set i.val (c.line i) = c.lines := by
    apply Vector.ext
    intro j hj
    rw [Vector.getElem_set]
    split
    · rename_i hij
      subst hij
      rfl
    · rfl
  unfold Capture.setLine
  rw [h]

/-- The report selection of the model is that of R11. -/
theorem Report.selects_iff (r : Report) (target : Level) : r.selects target = true ↔ Reported r target := by
  cases r <;> cases target <;> simp [Report.selects, Reported]

/-- A line record created is the record of the line's group, handed over where the group is enabled. -/
theorem Capture.createLineRecord_eq (c : Capture) (i : LineNo) (kind : RecordKind) (level : Level) (stamp : Stamp) (capture : Nat)
    (payload : BitVec 64) :
    c.createLineRecord i kind level stamp capture payload =
      c.handedWhen ((c.groups.get (c.line i).config.group).enabled = true)
        (lineRecordOf (c.groups.get (c.line i).config.group) i (c.line i).config.group kind level stamp capture payload) :=
  rfl

/-- A command that confirms a transition carries out the confirmation on the line as it finds it. -/
theorem exec_of_confirms {s : State} {i : LineNo} {c : Instr} {l : Line} {target : Level} {capture : Nat} {stamp : Stamp}
    (h : Confirms s i c l target capture stamp) :
    exec c s = .next { s with capture := (s.capture.setLine i l).confirm i target capture stamp } := by
  cases h with
  | expiry level target capture stamp candidate due =>
    simp [exec, execDebounceExpiry, State.onCapture, Capture.debounceExpiry, Capture.debounceDue, candidate, due]
  | change raw level stable noDebounce changed =>
    simp [exec, execRawChange, State.onCapture, Capture.rawChange, changed, stable, Capture.qualify, noDebounce,
      LineConfig.logical]

/-! ### The frame of what acts on one line -/

/-- `d` is `c` but for line `i`, the shed counts of the other lines, and what a record handed to the staging queue may touch. -/
abbrev ActsOnLine (i : LineNo) (c d : Capture) : Prop :=
  d = { c with lines := d.lines, staging := d.staging, highWater := d.highWater, tallies := d.tallies } ∧
  ∀ j, j ≠ i → SameButShedCount (c.line j) (d.line j)

theorem ActsOnLine.refl (i : LineNo) (c : Capture) : ActsOnLine i c c := ⟨rfl, fun _ _ => rfl⟩

theorem ActsOnLine.trans {i : LineNo} {a b c : Capture} (h : ActsOnLine i a b) (k : ActsOnLine i b c) : ActsOnLine i a c := by
  refine ⟨?_, fun j hj => ?_⟩
  · rw [k.1, h.1]
  · have h1 := h.2 j hj
    have h2 := k.2 j hj
    unfold SameButShedCount at *
    rw [h2, h1]

theorem ActsOnLine.setLine (i : LineNo) (c : Capture) (l : Line) : ActsOnLine i c (c.setLine i l) :=
  ⟨rfl, fun j hj => by rw [Capture.line_setLine_other c l hj]⟩

theorem ActsOnLine.stage (i : LineNo) (c : Capture) (e : Entry) : ActsOnLine i c (c.stage e).1 :=
  ⟨c.stage_frame e, fun j _ => c.stage_line e j⟩

theorem ActsOnLine.handedWhen (i : LineNo) (c : Capture) (created : Prop) [Decidable created] (e : Entry) :
    ActsOnLine i c (c.handedWhen created e) := by
  obtain ⟨-, h⟩ | ⟨-, h⟩ := Capture.handedWhen_cases created e c
  · rw [h]
    exact ActsOnLine.stage i c e
  · rw [h]
    exact ActsOnLine.refl i c

theorem ActsOnLine.createLineRecord (i j : LineNo) (c : Capture) (kind : RecordKind) (level : Level) (stamp : Stamp)
    (capture : Nat) (payload : BitVec 64) : ActsOnLine i c (c.createLineRecord j kind level stamp capture payload) := by
  rw [Capture.createLineRecord_eq]
  exact ActsOnLine.handedWhen i c _ _

/-- A record created leaves its own line as it was but for its shed count. -/
theorem Capture.createLineRecord_line (c : Capture) (i j : LineNo) (kind : RecordKind) (level : Level) (stamp : Stamp)
    (capture : Nat) (payload : BitVec 64) :
    SameButShedCount (c.line j) ((c.createLineRecord i kind level stamp capture payload).line j) := by
  unfold Capture.createLineRecord
  split
  · exact c.stage_line _ j
  · rfl

theorem ActsOnLine.confirm (i : LineNo) (c : Capture) (target : Level) (capture : Nat) (stamp : Stamp) :
    ActsOnLine i c (c.confirm i target capture stamp) := by
  simp only [Capture.confirm]
  refine ActsOnLine.trans (ActsOnLine.setLine i c
    { c.line i with qualifier := .stable target, transitionCount := satInc (c.line i).transitionCount }) ?_
  cases (c.line i).config.role with
  | off => exact ActsOnLine.refl i _
  | event =>
    simp only [Capture.confirmEvent]
    split
    · split
      · exact (ActsOnLine.setLine i _ _).trans (ActsOnLine.createLineRecord i i _ _ _ _ _ _)
      · exact ActsOnLine.setLine i _ _
    · exact (ActsOnLine.setLine i _ _).trans (ActsOnLine.createLineRecord i i _ _ _ _ _ _)
    · exact ActsOnLine.setLine i _ _
  | count =>
    simp only [Capture.confirmCount]
    split
    · split
      · exact (ActsOnLine.setLine i _ _).trans (ActsOnLine.createLineRecord i i _ _ _ _ _ _)
      · exact ActsOnLine.setLine i _ _
    · exact ActsOnLine.refl i _

theorem ActsOnLine.qualify (i : LineNo) (c : Capture) (target : Level) : ActsOnLine i c (c.qualify i target) := by
  simp only [Capture.qualify]
  split
  · exact ActsOnLine.confirm i c _ _ _
  · exact ActsOnLine.setLine i c _

theorem ActsOnLine.rawChange (i : LineNo) (c : Capture) (raw : Level) : ActsOnLine i c (c.rawChange i raw) := by
  simp only [Capture.rawChange]
  split
  · exact ActsOnLine.refl i c
  · split
    · exact ActsOnLine.setLine i c _
    · exact (ActsOnLine.setLine i c _).trans (ActsOnLine.qualify i _ _)
    · exact ActsOnLine.setLine i c _

theorem ActsOnLine.debounceExpiry (i : LineNo) (c : Capture) : ActsOnLine i c (c.debounceExpiry i) := by
  unfold Capture.debounceExpiry
  split
  · split
    · exact ActsOnLine.confirm i c _ _ _
    · exact ActsOnLine.refl i c
    · exact ActsOnLine.refl i c
  · exact ActsOnLine.refl i c

theorem ActsOnLine.windowExpiry (i : LineNo) (c : Capture) : ActsOnLine i c (c.windowExpiry i) := by
  unfold Capture.windowExpiry
  split
  · exact ActsOnLine.setLine i c _
  · exact ActsOnLine.refl i c

theorem ActsOnLine.quietExpiry (i : LineNo) (c : Capture) : ActsOnLine i c (c.quietExpiry i) := by
  unfold Capture.quietExpiry
  split
  · exact (ActsOnLine.setLine i c _).trans (ActsOnLine.createLineRecord i i _ _ _ _ _ _)
  · exact ActsOnLine.refl i c

theorem ActsOnLine.closeEpisode (i : LineNo) (c : Capture) : ActsOnLine i c (c.closeEpisode i) := by
  unfold Capture.closeEpisode
  split
  · exact ActsOnLine.createLineRecord i i _ _ _ _ _ _
  · exact ActsOnLine.refl i c

/-- Closing an episode leaves its own line as it was but for its shed count. -/
theorem Capture.closeEpisode_line (c : Capture) (i j : LineNo) : SameButShedCount (c.line j) ((c.closeEpisode i).line j) := by
  unfold Capture.closeEpisode
  split
  · exact c.createLineRecord_line i j _ _ _ _ _
  · rfl

theorem ActsOnLine.configureLine (i : LineNo) (c : Capture) (cfg : LineConfig) : ActsOnLine i c (c.configureLine cfg i) := by
  unfold Capture.configureLine
  split
  · unfold Capture.configureFromOff
    split
    · exact ActsOnLine.setLine i c _
    · exact ActsOnLine.setLine i c _
  · split
    · exact (ActsOnLine.closeEpisode i c).trans (ActsOnLine.setLine i _ _)
    · simp only [Capture.configureKept]
      split
      · exact (ActsOnLine.closeEpisode i c).trans (ActsOnLine.setLine i _ _)
      · exact ((ActsOnLine.closeEpisode i c).trans (ActsOnLine.setLine i _ _)).trans (ActsOnLine.qualify i _ _)

/-! ### What a confirmation leaves of its line -/

/-- The chatter monitor moves a line's chatter state and episode count alone. -/
theorem chatterMonitor_frame (now : Nat) (l : Line) :
    (chatterMonitor now l).1 = { l with
      chatter := (chatterMonitor now l).1.chatter, episodeCount := (chatterMonitor now l).1.episodeCount } := by
  unfold chatterMonitor
  split
  · split
    · rfl
    · split <;> rfl
    · rfl
  · rfl

/-- What a confirmation may touch of its own line. -/
abbrev ConfirmedFrom (target : Level) (l m : Line) : Prop :=
  m = { l with
    qualifier := .stable target, chatter := m.chatter, counter := m.counter
    transitionCount := satInc l.transitionCount, shedCount := m.shedCount, episodeCount := m.episodeCount }

theorem ConfirmedFrom.ofShed {target : Level} {l m n : Line} (h : ConfirmedFrom target l m) (k : SameButShedCount m n) :
    ConfirmedFrom target l n := by
  unfold ConfirmedFrom SameButShedCount at *
  rw [k, h]

/-- After a confirmation the line is in STABLE at the target level with the transition counted, its configuration, raw level and
glitch count as they were. -/
theorem Capture.confirm_line (c : Capture) (i : LineNo) (target : Level) (capture : Nat) (stamp : Stamp) :
    ConfirmedFrom target (c.line i) ((c.confirm i target capture stamp).line i) := by
  simp only [Capture.confirm]
  cases (c.line i).config.role with
  | off => simp [ConfirmedFrom]
  | event =>
    simp only [Capture.confirmEvent]
    have monitored : ∀ l o, chatterMonitor (c.setLine i { c.line i with
          qualifier := .stable target, transitionCount := satInc (c.line i).transitionCount }).elapsed
        ((c.setLine i { c.line i with
          qualifier := .stable target, transitionCount := satInc (c.line i).transitionCount }).line i) = (l, o) →
        ConfirmedFrom target (c.line i) l := by
      intro l o h
      have h1 := congrArg Prod.fst h
      simp only at h1
      rw [← h1, chatterMonitor_frame]
      simp [ConfirmedFrom]
    split
    all_goals
      rename_i h
      have hl := monitored _ _ h
    · split
      · refine ConfirmedFrom.ofShed ?_ (Capture.createLineRecord_line _ i i _ _ _ _ _)
        simpa using hl
      · simpa using hl
    · refine ConfirmedFrom.ofShed ?_ (Capture.createLineRecord_line _ i i _ _ _ _ _)
      simpa using hl
    · simpa using hl
  | count =>
    simp only [Capture.confirmCount]
    split
    · split
      · refine ConfirmedFrom.ofShed ?_ (Capture.createLineRecord_line _ i i _ _ _ _ _)
        simp [ConfirmedFrom]
      · simp [ConfirmedFrom]
    · simp [ConfirmedFrom]

end Sys2Proof.Machine
end

