-- ==== Sys2Proof/Laws/Session.lean ====
section
/-! SUPPORT. What each shared operation of the host side does, once: the completion writer, the ring writer, the notifier, faults, and
the intake of a host command. -/

namespace Sys2Proof.Machine

/-! ### The bytes of a completion (R179) -/

theorem range_24 : List.range 24 = [0, 1, 2, 3, 4, 5, 6, 7, 8, 9, 10, 11, 12, 13, 14, 15, 16, 17, 18, 19, 20, 21, 22, 23] := rfl

theorem range_32 : List.range 32 =
    [0, 1, 2, 3, 4, 5, 6, 7, 8, 9, 10, 11, 12, 13, 14, 15, 16, 17, 18, 19, 20, 21, 22, 23, 24, 25, 26, 27, 28, 29, 30, 31] := rfl

/-- The 32 bytes that the completion writer writes are those of the layout, in order. -/
theorem Completion.bytesOf_bits (c : Completion) (phase : Bool) (head : Nat) :
    bytesOf 32 (c.bits phase head) =
      completionBytes c.kind phase c.tag c.status.code c.fieldIndex head (bytesOf 24 c.result) := by
  unfold Completion.bits completionBytes bytesOf
  rw [range_32, range_24]
  simp (disch := omega) [fieldAt_placeAt_below, fieldAt_placeAt_above, fieldAt_placeAt_byte, List.range_succ, fieldAt_ofBool,
    fieldAt_self]

/-! ### The completion writer, the ring writer and the notifier -/

/-- What a claim makes of a ring. -/
theorem HostRing.claim_eq (r : HostRing) : r.claim = r.claimed := rfl

/-- A completion handed over takes the next slot of the completion ring, and its write becomes due with the bytes of its layout. -/
theorem Attached.handCompletion_eq (h : Attached) (c : Completion) (now : Nat) :
    h.handCompletion c now = h.completed now c.kind c.tag c.status.code c.fieldIndex (bytesOf 24 c.result) := by
  unfold Attached.handCompletion Attached.completed Attached.makeDue
  rw [Completion.bytesOf_bits]
  rfl

/-- A record that claims a slot of a present ring takes the next slot, and its write becomes due with the ring's phase. -/
theorem Attached.claimSlot_present (h : Attached) {n : RingNo} {r : HostRing} (hr : h.eventRing n = some r) (record : Record32)
    (isReplay checkFailed : Bool) (now : Nat) :
    h.claimSlot n record isReplay checkFailed now =
      h.ringWritten n r now (bytesOf 32 (withFlags r.phase isReplay checkFailed record)) := by
  simp only [Attached.claimSlot, hr]
  rfl

/-- A record for an absent ring claims nothing. -/
theorem Attached.claimSlot_absent (h : Attached) {n : RingNo} (hr : h.eventRing n = none) (record : Record32)
    (isReplay checkFailed : Bool) (now : Nat) : h.claimSlot n record isReplay checkFailed now = h := by
  simp only [Attached.claimSlot, hr]

/-- A send makes the vector's message due and leaves the vector DISARMED with count 0 and its timer idle. -/
theorem Attached.send_eq (h : Attached) (v : VectorNo) (now : Nat) : h.send v now = h.messageSent v now := rfl

theorem Attached.setVector_setVector (h : Attached) (v : VectorNo) (x y : NotifyVector) :
    (h.setVector v x).setVector v y = h.setVector v y := by
  simp [Attached.setVector]

/-- A send after a change of the vector that kept its message, whatever else it changed. -/
theorem Attached.send_setVector (h : Attached) (v : VectorNo) (x : NotifyVector) (now : Nat)
    (same : { x with armed := false, count := 0, timer := none } =
      { h.vector v with armed := false, count := 0, timer := none }) :
    (h.setVector v x).send v now = h.messageSent v now := by
  have hx : (h.setVector v x).vector v = x := by simp [Attached.vector_setVector]
  have ha : x.address = (h.vector v).address := by simpa using congrArg NotifyVector.address same
  have hd : x.data = (h.vector v).data := by simpa using congrArg NotifyVector.data same
  unfold Attached.send Attached.messageSent
  rw [hx, Attached.setVector_setVector, same, ha, hd]
  rfl

/-- All a posting can do (R169): a send, or a raised count with the timer started by the first posting to an ARMED vector. -/
theorem Attached.post_eq (h : Attached) (v : VectorNo) (now : Nat) : h.post v now =
      if (h.vectors.get v).armed = true ∧ ((h.vectors.get v).threshold ≤ (h.vectors.get v).count + 1 ∨
          ((h.vectors.get v).count = 0 ∧ (h.vectors.get v).delay = 0)) then
        h.messageSent v now
      else
        { h with
          vectors := h.vectors.set v.val { h.vectors.get v with
            count := (h.vectors.get v).count + 1
            timer :=
              if (h.vectors.get v).armed = true ∧ (h.vectors.get v).count = 0 then
                some (now + (h.vectors.get v).delay)
              else (h.vectors.get v).timer } } := by
  have hsend := Attached.send_setVector h v { h.vector v with count := (h.vector v).count + 1 } now rfl
  simp only [Attached.post, hsend]
  simp only [Attached.vector, Attached.setVector]
  by_cases ha : (h.vectors.get v).armed = true
  · by_cases h1 : (h.vectors.get v).threshold ≤ (h.vectors.get v).count + 1
    · simp [ha, h1]
    · by_cases h2 : (h.vectors.get v).count = 0
      · by_cases h3 : (h.vectors.get v).delay = 0
        · simp [ha, h2, h3]
        · simp [ha, h2, h3]
      · simp [ha, h1, h2]
  · simp [ha]

/-- All an arming can do (R172): a send, or the vector ARMED with its timer started where a count waits without one. -/
theorem Attached.arm_eq (h : Attached) (v : VectorNo) (now : Nat) : h.arm v now =
          (if (h.vectors.get v).threshold ≤ (h.vectors.get v).count ∨ ((h.vectors.get v).count ≠ 0 ∧
              (h.vectors.get v).timer = none ∧ (h.vectors.get v).delay = 0) then
            h.messageSent v now
          else
            { h with vectors := h.vectors.set v.val { h.vectors.get v with
                armed := true
                timer :=
                  if (h.vectors.get v).count ≠ 0 ∧ (h.vectors.get v).timer = none then
                    some (now + (h.vectors.get v).delay)
                  else (h.vectors.get v).timer } }) := by
  have hsend := Attached.send_setVector h v { h.vector v with armed := true } now rfl
  simp only [Attached.arm, hsend]
  simp only [Attached.vector, Attached.setVector]
  by_cases h1 : (h.vectors.get v).threshold ≤ (h.vectors.get v).count
  · simp [h1]
  · have hc : (1 ≤ (h.vectors.get v).count) ↔ (h.vectors.get v).count ≠ 0 := by omega
    simp only [h1, if_false, false_or, hc]
    by_cases h2 : (h.vectors.get v).count ≠ 0 ∧ (h.vectors.get v).timer = none
    · by_cases h3 : (h.vectors.get v).delay = 0
      · simp [h2, h3]
      · simp [h2, h3]
    · rw [if_neg h2]
      rw [if_neg (fun x => h2 ⟨x.1, x.2.1⟩), if_neg h2]

/-! ### Faults -/

theorem State.raiseFault_attached (s : State) (code : FaultCode) {h : Attached} (hs : s.host.session = .attached h) :
    s.raiseFault code = { s with host := s.host.faultedFrom h code s.capture.elapsed } := by
  simp only [State.raiseFault, hs, HostSide.faultedFrom, Attached.faultMessage]

theorem State.raiseFault_attaching (s : State) (code : FaultCode) {address : BitVec 64} {dueAt number : Nat}
    (hs : s.host.session = .attaching address dueAt number) :
    s.raiseFault code = { s with host := { s.host with faultCode := code, session := .faulted none } } := by
  simp only [State.raiseFault, hs]

/-! ### The intake of a host command -/

theorem State.commandRead_inFlight {s : State} {read : Nat} {h : Attached} (r : ReadInFlight s read h) : s.commandRead read = some h.readDone := by
  obtain ⟨hs, address, dueAt, hc, ht⟩ := r
  simp only [State.commandRead, hs, hc, Config.dmaTimeout, ht, and_self, if_true]
  rfl

theorem State.commandRead_none {s : State} {read : Nat} (r : ∀ h, ¬ ReadInFlight s read h) : s.commandRead read = none := by
  unfold State.commandRead
  split
  · rename_i h hs
    split
    · rename_i address dueAt number hc
      exact if_neg fun (ht : read = number ∧ _) => r h ⟨hs, address, dueAt, ht.1 ▸ hc, ht.2⟩
    all_goals rfl
  all_goals rfl

/-- A host command whose read is in flight and whose validation fails is answered with BAD_FIELD. -/
theorem State.runCommand_refused {s : State} {read : Nat} {h : Attached} (r : ReadInFlight s read h) (kind : Byte) (tag : BitVec 16) (index : Nat)
    (body : State → State) :
    s.runCommand read kind tag (some index) body =
      s.withHost (h.answered s.capture.elapsed kind tag 0x02 index (bytesOf 24 (0 : BitVec 192))) := by
  simp only [State.runCommand, State.commandRead_inFlight r, State.completeBadField, State.handCompletion,
    State.onHost_attached _ _ (State.withHost_session _ _), State.withHost_withHost, Attached.handCompletion_eq,
    State.withHost_capture]
  rfl

/-- A host command whose read is in flight and whose validation accepts it is carried out with the read done. -/
theorem State.runCommand_accepted {s : State} {read : Nat} {h : Attached} (r : ReadInFlight s read h) (kind : Byte) (tag : BitVec 16)
    (body : State → State) : s.runCommand read kind tag none body = body (s.withHost h.readDone) := by
  simp only [State.runCommand, State.commandRead_inFlight r]

/-- A host command that finds no read of its own in flight has no effect. -/
theorem State.runCommand_discarded {s : State} {read : Nat} (r : ∀ h, ¬ ReadInFlight s read h) (kind : Byte) (tag : BitVec 16)
    (failure : Option Nat) (body : State → State) : s.runCommand read kind tag failure body = s := by
  simp only [State.runCommand, State.commandRead_none r]

/-- Everything a host command can do: nothing, a refusal, or its body with the read done. -/
theorem State.runCommand_cases (s : State) (read : Nat) (kind : Byte) (tag : BitVec 16) (failure : Option Nat) (body : State → State) :
    (s.runCommand read kind tag failure body = s ∧ ∀ h, ¬ ReadInFlight s read h) ∨
    (∃ h index, ReadInFlight s read h ∧ failure = some index ∧ s.runCommand read kind tag failure body =
      s.withHost (h.answered s.capture.elapsed kind tag 0x02 index (bytesOf 24 (0 : BitVec 192)))) ∨
    ∃ h, ReadInFlight s read h ∧ failure = none ∧ s.runCommand read kind tag failure body = body (s.withHost h.readDone) := by
  by_cases r : ∃ h, ReadInFlight s read h
  · obtain ⟨h, r⟩ := r
    cases failure with
    | some index => exact .inr (.inl ⟨h, index, r, rfl, State.runCommand_refused r kind tag index body⟩)
    | none => exact .inr (.inr ⟨h, r, rfl, State.runCommand_accepted r kind tag body⟩)
  · exact .inl ⟨State.runCommand_discarded (fun h hr => r ⟨h, hr⟩) kind tag failure body, fun h hr => r ⟨h, hr⟩⟩

/-- A completion of the command engine after a read that is done answers the command. -/
theorem State.complete_readDone (s : State) (h : Attached) (kind : Byte) (tag : BitVec 16) (status : Status)
    (result : BitVec 192) :
    (s.withHost h.readDone).complete kind tag status result =
      s.withHost (h.answered s.capture.elapsed kind tag status.code 0 (bytesOf 24 result)) := by
  simp only [State.complete, State.handCompletion, State.onHost_attached _ _ (State.withHost_session _ _),
    State.withHost_withHost, Attached.handCompletion_eq, State.withHost_capture]
  rfl

/-- The 24 result bytes of a completion with no result. -/
theorem bytesOf_zero : bytesOf 24 (0 : BitVec 192) = zeros 24 := by decide +kernel

end Sys2Proof.Machine
end

