-- ==== Sys2Proof/Laws/Release.lean ====
section
/-! SUPPORT. What a release step does, once: the bytes of a released record and of a GAP, in the archive's form and on a ring, and the
step itself. -/

namespace Sys2Proof.Machine

/-- A byte of a complement is the complement of the byte. -/
theorem fieldAt_complement (r : BitVec 256) (o : Nat) (h : 8 * o + 8 ≤ 256) : fieldAt (~~~ r) o 8 = ~~~ fieldAt r o 8 := by
  apply BitVec.eq_of_getLsbD_eq
  intro i hi
  rw [getLsbD_fieldAt, BitVec.getLsbD_not, BitVec.getLsbD_not, getLsbD_fieldAt]
  have : 8 * o + i < 256 := by omega
  simp [this, hi]

/-- The flags and the unassigned bits are bits 0 to 3, 6 and 7 of byte 1, bits 4 to 7 of byte 3, and no other. -/
theorem clearedMask_byte : ∀ o < 32, ~~~ fieldAt (flagMask ||| unassignedMask) o 8 =
    if o = 1 then 0x30#8 else if o = 3 then 0x0F#8 else 0xFF#8 := by decide +kernel

/-- What a record on a ring holds outside byte 1: what is stored, with bits 7 to 4 of byte 3 clear. -/
theorem withFlags_byte (phase isReplay failed : Bool) (r : Record32) (o : Nat) (ho : o < 32) (h1 : o ≠ 1) :
    fieldAt (withFlags phase isReplay failed r) o 8 = if o = 3 then fieldAt r o 8 &&& 0x0F#8 else fieldAt r o 8 := by
  unfold withFlags
  rw [fieldAt_or, fieldAt_and, fieldAt_complement _ _ (by omega), clearedMask_byte o ho, if_neg h1]
  have : fieldAt (placeAt 256 1 (BitVec.ofBool false ++ BitVec.ofBool failed ++ BitVec.ofBool isReplay ++ BitVec.ofBool phase)) o 8 = 0#8 := by
    rcases lt_or_gt_of_ne h1 with h | h
    · exact fieldAt_placeAt_below _ (by omega)
    · exact fieldAt_placeAt_above _ (by omega)
  rw [this]
  have h2 : (0xFF#8) = BitVec.allOnes 8 := by decide
  split
  · exact BitVec.or_zero
  · rw [h2, BitVec.and_allOnes]; exact BitVec.or_zero

/-- What a record on a ring holds in byte 1: the stored time quality and the three flags. -/
theorem withFlags_byte1 (phase isReplay failed : Bool) (r : Record32) :
    fieldAt (withFlags phase isReplay failed r) 1 8 = (fieldAt r 1 8 &&& 0x30#8) ||| BitVec.ofNat 8 (phase.toNat + 2 * isReplay.toNat + 4 * failed.toNat) := by
  unfold withFlags
  rw [fieldAt_or, fieldAt_and, fieldAt_complement _ _ (by omega), clearedMask_byte 1 (by decide), if_pos rfl]
  congr 1
  cases phase <;> cases isReplay <;> cases failed <;> decide +kernel

/-- The bytes of a record on a ring are the stored ones, with byte 1 replaced and bits 7 to 4 of byte 3 clear. -/
theorem bytesOf_withFlags (phase isReplay failed : Bool) (r : Record32) :
    bytesOf 32 (withFlags phase isReplay failed r) =
      ((bytesOf 32 r).set 1 ((fieldAt r 1 8 &&& 0x30#8) |||
        BitVec.ofNat 8 (phase.toNat + 2 * isReplay.toNat + 4 * failed.toNat))).set 3 (fieldAt r 3 8 &&& 0x0F#8) := by
  apply List.ext_getElem
  · simp
  · intro i h1 h2
    rw [getElem_bytesOf]
    simp only [length_bytesOf] at h1
    by_cases hi : i = 1
    · subst hi
      rw [List.getElem_set_ne (by omega), List.getElem_set_self]
      exact withFlags_byte1 ..
    · rw [withFlags_byte _ _ _ _ _ h1 hi]
      by_cases h3 : i = 3
      · subst h3
        rw [List.getElem_set_self, if_pos rfl]
      · rw [List.getElem_set_ne (by omega), List.getElem_set_ne (by omega), getElem_bytesOf, if_neg h3]

/-- The 32 bytes of a released record in the form the archive holds are those of the layout, in order. -/
theorem EventRecord.bytesOf_archived (e : EventRecord) : bytesOf 32 e.archived =
    recordBytes e.kind.code (qualityFlags e.stamp.quality) (lineCode e.line) (levelGroup e.level e.group) e.stamp.generation
      (word64 e.sequence) (word64 e.stamp.timeValue) e.payload := by
  unfold EventRecord.archived recordBytes bytesOf
  rw [range_32]
  simp (disch := omega) [fieldAt_placeAt_below, fieldAt_placeAt_above, fieldAt_placeAt_byte, List.range_succ,
    fieldAt_self]

/-- The flags byte of a live record is that of the archive's form with the phase. -/
theorem qualityFlags_phase (q : Quality) (phase : Bool) : (qualityFlags q &&& 0x30#8) ||| BitVec.ofNat 8 (phase.toNat + 2 * false.toNat + 4 * false.toNat) = liveFlags q phase := by
  cases q <;> cases phase <;> decide +kernel

/-- The flags byte that the archive holds carries the time quality alone. -/
theorem EventRecord.archived_byte1 (e : EventRecord) : fieldAt e.archived 1 8 = qualityFlags e.stamp.quality := by
  have h := EventRecord.bytesOf_archived e
  have := congrArg (fun l => l[1]?) h
  simpa [recordBytes, bytesOf, List.range_succ] using this

/-- Byte 3 that the archive holds carries the level and the group alone. -/
theorem EventRecord.archived_byte3 (e : EventRecord) : fieldAt e.archived 3 8 = levelGroup e.level e.group := by
  have h := EventRecord.bytesOf_archived e
  have := congrArg (fun l => l[3]?) h
  simpa [recordBytes, bytesOf, List.range_succ] using this

/-- Byte 3 of a record has its bits 7 to 4 clear. -/
theorem levelGroup_low (level : Level) (group : GroupNo) : levelGroup level group &&& 0x0F#8 = levelGroup level group := by
  revert group
  cases level <;> decide

/-- The 32 bytes of a live record on its ring are those of the layout with the ring's phase. -/
theorem EventRecord.bytesOf_live (e : EventRecord) (phase : Bool) : bytesOf 32 (withFlags phase false false e.archived) =
   recordBytes e.kind.code (liveFlags e.stamp.quality phase) (lineCode e.line) (levelGroup e.level e.group) e.stamp.generation
      (word64 e.sequence) (word64 e.stamp.timeValue) e.payload := by
  rw [bytesOf_withFlags, EventRecord.archived_byte1, qualityFlags_phase, EventRecord.archived_byte3, levelGroup_low,
    EventRecord.bytesOf_archived]
  rfl

/-- A record is determined by its 32 bytes. -/
theorem Record32_ext_bytes {a b : Record32} (h : bytesOf 32 a = bytesOf 32 b) : a = b := by
  rw [← bitsOfBytes_bytesOf 32 a (by decide), ← bitsOfBytes_bytesOf 32 b (by decide), h]

/-- The archive's form has the three flags clear. -/
theorem EventRecord.withFlags_archived (e : EventRecord) : withFlags false false false e.archived = e.archived := by
  apply Record32_ext_bytes
  rw [EventRecord.bytesOf_live, EventRecord.bytesOf_archived]
  congr 1
  cases e.stamp.quality <;> decide +kernel

/-- The line byte of the statements is the line code of the layout. -/
theorem lineByte_eq_lineCode (o : Option LineNo) : lineByte o = lineCode o := by cases o <;> rfl

/-- The first entry targeted at a ring, and the queue without it. -/
theorem Capture.firstFor_append {c : Capture} {n : RingNo} {before after : List Entry} {e : Entry} (h : c.staging = before ++ e :: after) (hb : ∀ x ∈ before, x.ring ≠ n) (he : e.ring = n) :
    c.firstFor n = some e ∧ c.staging.eraseP (fun x => decide (x.ring = n)) = before ++ after := by
  constructor
  · unfold Capture.firstFor
    rw [h, List.find?_append]
    have : List.find? (fun e => decide (e.ring = n)) before = none := by
      rw [List.find?_eq_none]; intro x hx; simp [hb x hx]
    simp [this, he]
  · rw [h, List.eraseP_append_right _ (by intro x hx; simp [hb x hx])]
    simp [he]

/-- The payload of a GAP is the count with the class mask above it. -/
theorem gapPayload_eq (t : Tally) : gapPayload t = BitVec.ofNat 64 (t.count.toNat + 2 ^ 32 * t.classes.toNat) := by
  unfold gapPayload placeAt
  have h1 := t.count.isLt
  have h2 := t.classes.isLt
  apply BitVec.eq_of_toNat_eq
  have e1 : (BitVec.setWidth 64 t.count <<< (8 * 0)).toNat = t.count.toNat := by
    simp; omega
  have e2 : (BitVec.setWidth 64 (BitVec.setWidth 8 t.classes) <<< (8 * 4)).toNat = t.classes.toNat <<< 32 := by
    simp [Nat.shiftLeft_eq]; omega
  rw [BitVec.toNat_or, e1, e2, Nat.or_comm, ← Nat.shiftLeft_add_eq_or_of_lt h1, Nat.shiftLeft_eq, BitVec.toNat_ofNat, Nat.mod_eq_of_lt (by omega)]
  omega

/-- A release step that is taken: the capture side releases, and a present ring takes the record. -/
theorem exec_releaseStep {s : State} {n : RingNo} {e : Entry} (hf : s.capture.firstFor n = some e)
    (he : e.capture + s.capture.horizon ≤ s.capture.elapsed)
    (hr : ∀ r, s.attachedRing n = some r → r.occupied < r.size - 1) :
    exec (.releaseStep n) s = .next { s with
      capture := s.capture.release n e
      host := { s.host with
          session :=
            match s.host.session with
            | .attached h =>
              match h.eventRings.get n with
              | some r => .attached (h.ringWritten n r s.capture.elapsed (bytesOf 32 (withFlags r.phase false false (s.capture.releasedRecord n e).archived)))
              | none => .attached h
            | other => other } } := by
  have hcan : s.canTake n = true := by
    unfold State.canTake
    cases hx : s.attachedRing n with
    | none => rfl
    | some r => have := hr r hx; show decide (0 < r.size - 1 - r.occupied) = true; rw [decide_eq_true_eq]; omega
  simp only [exec, execReleaseStep, State.releaseStep, Capture.liveClaim, hf, Capture.eligible, he, decide_true, if_true, hcan]
  congr 1
  unfold State.onHost State.onCapture
  simp only
  cases hs : s.host.session with
  | detached => simp only [← hs]
  | attaching a d => simp only [← hs]
  | faulted m => simp only [← hs]
  | attached h =>
    simp only
    unfold State.withHost
    cases hx : h.eventRings.get n with
    | none => rw [Attached.claimSlot_absent h hx]
    | some r => rw [Attached.claimSlot_present h hx]

end Sys2Proof.Machine
end

