-- ==== Sys2Proof/Laws/Exec.lean ====
section
/-! SUPPORT. Everything that one command, and one step, can do to the capture side, said once. -/

namespace Sys2Proof.Machine

/-- The ways in which one command can leave the capture side. -/
inductive CaptureMove (c : Capture) : Capture → Prop
  | kept : CaptureMove c c
  | rawChange (i : LineNo) (raw : Level) : CaptureMove c (c.rawChange i raw)
  | debounceExpiry (i : LineNo) : CaptureMove c (c.debounceExpiry i)
  | windowExpiry (i : LineNo) : CaptureMove c (c.windowExpiry i)
  | quietExpiry (i : LineNo) : CaptureMove c (c.quietExpiry i)
  | syncSample (level : Level) : CaptureMove c (c.syncSample level)
  | endHold : CaptureMove c (c.onTimebase (Timebase.endHold c.elapsed))
  | lose : CaptureMove c (c.onTimebase (Timebase.lose c.elapsed))
  | endHoldover : CaptureMove c (c.onTimebase (Timebase.endHoldover c.elapsed))
  | release (n : RingNo) (e : Entry) (claim : c.liveClaim n = some e) : CaptureMove c (c.release n e)
  | disturb (q : Nat) (record : Record32) (code : BitVec 16) :
      CaptureMove c { c with archive := c.archive.disturb q record code }
  | configureLines (mask : BitVec 64) (cfg : LineConfig) (ranges : cfg.InRange) : CaptureMove c (c.configureLines mask cfg)
  | configureGroup (g : GroupNo) (x : Group) : CaptureMove c (c.configureGroup g x)
  | configureTimebase (enable : Bool) (edge : Edge) (tolerance limit : Nat) (ranges : 1 ≤ tolerance ∧ tolerance ≤ 50000 ∧
      1 ≤ limit ∧ limit ≤ 86400) : CaptureMove c (c.onTimebase (Timebase.configure enable edge tolerance limit c.elapsed))
  | setTime (value : Nat) (systemRing : RingNo) (next : c.timebase.generation ≠ 0xFFFFFFFF#32)
      (room : c.staging.length < 512) : CaptureMove c (c.setTime value systemRing)
  | snapshotCounters (mask : Byte) (clear : Bool) : CaptureMove c (c.snapshotCounters mask clear).capture
  | clearStatistics : CaptureMove c c.clearStatistics
  | powerOn (levels : BitVec 48) (sync : Level) : CaptureMove c (Capture.powerOn levels sync)

/-! ### Parts of a command that leave the capture side -/

@[simp] theorem State.raiseFault_capture (s : State) (code : FaultCode) : (s.raiseFault code).capture = s.capture := by
  unfold State.raiseFault
  split <;> rfl

@[simp] theorem State.complete_capture (s : State) (kind : Byte) (tag : BitVec 16) (status : Status) (result : BitVec 192) :
    (s.complete kind tag status result).capture = s.capture := State.onHost_capture _ _

@[simp] theorem State.writeBuffer_capture (s : State) (kind : Byte) (tag : BitVec 16) (address : BitVec 64) (data : List Byte) :
    (s.writeBuffer kind tag address data).capture = s.capture := State.onHost_capture _ _

@[simp] theorem State.writeCmdTail_capture (s : State) (value : BitVec 32) : (s.writeCmdTail value).capture = s.capture := by
  unfold State.writeCmdTail
  split
  · split <;> simp
  all_goals rfl

@[simp] theorem State.writeCplHead_capture (s : State) (value : BitVec 32) : (s.writeCplHead value).capture = s.capture := by
  unfold State.writeCplHead
  split
  · split <;> simp
  all_goals rfl

@[simp] theorem State.writeEvtHead_capture (s : State) (n : RingNo) (value : BitVec 32) :
    (s.writeEvtHead n value).capture = s.capture := by
  unfold State.writeEvtHead
  split
  · split
    · split <;> simp
    · simp
  all_goals rfl

@[simp] theorem State.takeCommand_capture (s : State) : s.takeCommand.capture = s.capture := by
  unfold State.takeCommand
  split
  · split <;> rfl
  all_goals rfl

@[simp] theorem State.attach_capture (s : State) : s.attach.capture = s.capture := by
  unfold State.attach
  split <;> rfl

@[simp] theorem State.writeControl_capture (s : State) (value : BitVec 32) : (s.writeControl value).capture = s.capture := by
  unfold State.writeControl
  split
  · simp
  · split
    · simp
    · split <;> simp

@[simp] theorem State.writeRegister_capture (s : State) (offset : BitVec 12) (value : BitVec 32) (enables : BitVec 4) :
    (s.writeRegister offset value enables).capture = s.capture := by
  unfold State.writeRegister
  split
  · split
    · simp
    · split <;> rfl
    · split <;> rfl
    all_goals simp
  · rfl

@[simp] theorem State.issueWrite_capture (s : State) : s.issueWrite.capture = s.capture := by
  unfold State.issueWrite
  split
  · split
    · split <;> rfl
    · rfl
  · split <;> rfl
  all_goals rfl

@[simp] theorem State.blockRead_capture (s : State) (read : Nat) (b : InitBlock) : (s.blockRead read b).capture = s.capture := by
  unfold State.blockRead
  split
  · split
    · simp [State.initInvalid]
    · simp [State.sessionAttached, State.handCompletion]
  · rfl

/-- A host command leaves the capture side as its body does, on a state with the same capture side, and only when its validation
accepts it. -/
theorem CaptureMove.ofRun {s : State} (read : Nat) (kind : Byte) (tag : BitVec 16) (failure : Option Nat) (body : State → State)
    (move : failure = none → ∀ t, t.capture = s.capture → CaptureMove s.capture (body t).capture) :
    CaptureMove s.capture (s.runCommand read kind tag failure body).capture := by
  obtain ⟨h, -⟩ | ⟨h, index, -, -, e⟩ | ⟨h, -, hf, e⟩ := s.runCommand_cases read kind tag failure body
  · rw [h]
    exact .kept
  · rw [e]
    exact .kept
  · rw [e]
    exact move hf _ rfl

/-- A host command whose body leaves the capture side leaves it. -/
theorem CaptureMove.ofQuietRun {s : State} (read : Nat) (kind : Byte) (tag : BitVec 16) (failure : Option Nat) (body : State → State)
    (quiet : ∀ t, (body t).capture = t.capture) :
    CaptureMove s.capture (s.runCommand read kind tag failure body).capture :=
  CaptureMove.ofRun read kind tag failure body fun _ t ht => by
    rw [quiet, ht]
    exact .kept

/-- A capture side that is as it was. -/
theorem CaptureMove.ofEq {c d : Capture} (h : d = c) : CaptureMove c d := h ▸ .kept

/-! ### What validation has accepted -/

theorem firstFailure_cons (index : Nat) (ok : Bool) (rest : List (Nat × Bool)) :
    firstFailure ((index, ok) :: rest) = if ok then firstFailure rest else some index := rfl

/-- Validation that finds no failure has found every test to hold. -/
theorem firstFailure_eq_none {tests : List (Nat × Bool)} (h : firstFailure tests = none) : ∀ t ∈ tests, t.2 = true := by
  induction tests with
  | nil => intro t ht; cases ht
  | cons a rest ih =>
    obtain ⟨index, ok⟩ := a
    rw [firstFailure_cons] at h
    cases ok with
    | false => cases h
    | true =>
      intro t ht
      rcases List.mem_cons.mp ht with rfl | ht
      · rfl
      · exact ih h t ht

/-- Validation finds no failure where every test holds. -/
theorem firstFailure_none_of {tests : List (Nat × Bool)} (h : ∀ t ∈ tests, t.2 = true) : firstFailure tests = none := by
  induction tests with
  | nil => rfl
  | cons a rest ih =>
    obtain ⟨index, ok⟩ := a
    have hok : ok = true := h (index, ok) List.mem_cons_self
    rw [firstFailure_cons, hok, if_pos rfl]
    exact ih fun t ht => h t (List.mem_cons_of_mem _ ht)

/-- The line record of an accepted CONFIGURE_LINES is in range. -/
theorem lineConfigOf_inRange {tag : BitVec 16} {p : LineParams} (h : linesFailure tag p = none) : (lineConfigOf p).InRange := by
  have all := firstFailure_eq_none h
  have h6 := all (6, inRange 0 200000 p.debounce.toNat) (by simp)
  have h7 := all (7, decide (p.chatterLimit.toNat ≠ 1)) (by simp)
  have h8 := all (8, inRange 1 60000 p.chatterWindow.toNat) (by simp)
  have h9 := all (9, inRange 1 600000 p.quietTime.toNat) (by simp)
  have h255 := p.chatterLimit.isLt
  simp only [inRange, Bool.and_eq_true, decide_eq_true_eq] at h6 h7 h8 h9
  refine ⟨h6.2, h7, ?_, h8.1, h8.2, h9.1, h9.2⟩
  show p.chatterLimit.toNat ≤ 255
  omega

/-- The tolerance and the limit of an accepted CONFIGURE_TIMEBASE are in range. -/
theorem timebaseFailure_ranges {tag : BitVec 16} {enable edge : Byte} {tolerance limit : BitVec 32}
    (h : timebaseFailure tag enable edge tolerance limit = none) :
    1 ≤ tolerance.toNat ∧ tolerance.toNat ≤ 50000 ∧ 1 ≤ limit.toNat ∧ limit.toNat ≤ 86400 := by
  have all := firstFailure_eq_none h
  have h4 := all (4, inRange 1 50000 tolerance.toNat) (by simp)
  have h5 := all (5, inRange 1 86400 limit.toNat) (by simp)
  simp only [inRange, Bool.and_eq_true, decide_eq_true_eq] at h4 h5
  exact ⟨h4.1, h4.2, h5.1, h5.2⟩

/-! ### One command -/

/-- Everything one command can do to the capture side. -/
theorem exec_capture {c : Instr} {s t : State} (h : exec c s = .next t) : CaptureMove s.capture t.capture := by
  cases c with
  | rawChange i l => cases h; exact .rawChange i l
  | debounceExpiry i => cases h; exact .debounceExpiry i
  | windowTimerExpiry i => cases h; exact .windowExpiry i
  | quietTimerExpiry i => cases h; exact .quietExpiry i
  | syncPulse l => cases h; exact .syncSample l
  | holdExpiry => cases h; exact .endHold
  | lossExpiry => cases h; exact .lose
  | holdoverExpiry => cases h; exact .endHoldover
  | entryEligible n => cases h; exact .kept
  | releaseStep n =>
    cases h
    unfold State.releaseStep
    split
    · exact .kept
    · rename_i e he
      split
      · simp only [State.onHost_capture, State.onCapture_capture]
        exact .release n e he
      · exact .kept
  | replayRead => cases h; exact .ofEq (State.onHost_capture _ _)
  | replayGrant => cases h; exact .ofEq (State.onHost_capture _ _)
  | verifyRead => cases h; exact .ofEq (State.onHost_capture _ _)
  | commandTake => cases h; exact .ofEq (State.takeCommand_capture _)
  | badKind kind head =>
    cases h
    split
    · exact .kept
    · exact .ofQuietRun _ _ _ _ _ fun t => State.complete_capture _ _ _ _ _
  | configureLines head p =>
    cases h
    refine .ofRun _ _ _ _ _ fun hf t ht => ?_
    simp only [State.configureLines, State.complete_capture, State.onCapture_capture, ht]
    exact .configureLines _ _ (lineConfigOf_inRange hf)
  | configureGroup head group cls ring enabled =>
    cases h
    refine .ofRun _ _ _ _ _ fun hf t ht => ?_
    unfold State.configureGroup
    split
    · simp only [State.complete_capture, State.onCapture_capture, ht]
      exact .configureGroup _ _
    · exact .ofEq (by simp [ht])
  | configureTimebase head enable edge tolerance limit =>
    cases h
    refine .ofRun _ _ _ _ _ fun hf t ht => ?_
    simp only [State.configureTimebase, State.complete_capture, State.onCapture_capture, ht]
    exact .configureTimebase _ _ _ _ (timebaseFailure_ranges hf)
  | setTime head value =>
    cases h
    refine .ofRun _ _ _ _ _ fun hf t ht => ?_
    unfold State.setTime
    split
    · split
      · exact .ofEq (by simp [ht])
      · split
        · exact .ofEq (by simp [ht])
        · rename_i h1 h2
          simp only [State.complete_capture, State.onCapture_capture, ht] at h1 h2 ⊢
          exact .setTime _ _ h1 (Nat.lt_of_not_le h2)
    all_goals exact .ofEq ht
  | getTime head => cases h; exact .ofQuietRun _ _ _ _ _ fun t => State.complete_capture _ _ _ _ _
  | snapshotLevels head address => cases h; exact .ofQuietRun _ _ _ _ _ fun t => State.writeBuffer_capture _ _ _ _ _
  | snapshotCounters head mask clear =>
    cases h
    refine .ofRun _ _ _ _ _ fun hf t ht => ?_
    simp only [State.snapshotCounters, State.complete_capture, State.onCapture_capture, ht]
    exact .snapshotCounters _ _
  | readStatistics head address clear =>
    cases h
    refine .ofRun _ _ _ _ _ fun hf t ht => ?_
    simp only [State.readStatistics, State.writeBuffer_capture]
    split
    · rw [State.onCapture_capture, ht]
      exact .clearStatistics
    · exact .ofEq ht
  | replay head first count ring => cases h; exact .ofQuietRun _ _ _ _ _ fun t => State.onHost_capture _ _
  | verifyArchive head first count => cases h; exact .ofQuietRun _ _ _ _ _ fun t => State.onHost_capture _ _
  | abort head target => cases h; exact .ofQuietRun _ _ _ _ _ fun t => State.onHost_capture _ _
  | setNotify head vector threshold delay => cases h; exact .ofQuietRun _ _ _ _ _ fun t => State.onHost_capture _ _
  | memoryWriteIssue => cases h; exact .ofEq (State.issueWrite_capture _)
  | coalescingTimerExpiry v => cases h; exact .ofEq (State.onHost_capture _ _)
  | cmdTail v => cases h; exact .ofEq (State.writeCmdTail_capture _ _)
  | cplHead v => cases h; exact .ofEq (State.writeCplHead_capture _ _)
  | evtHead n v => cases h; exact .ofEq (State.writeEvtHead_capture _ _ _)
  | registerWrite offset value enables => cases h; exact .ofEq (State.writeRegister_capture _ _ _ _)
  | attach => cases h; exact .ofEq (State.attach_capture _)
  | blockReadComplete answer => cases h; exact .ofEq (State.blockRead_capture _ _ _)
  | initBusError cause =>
    cases h
    refine .ofEq ?_
    split
    · split <;> simp
    all_goals rfl
  | readBusError cause =>
    cases h
    refine .ofEq ?_
    split
    · split
      · split <;> simp
      all_goals rfl
    all_goals rfl
  | writeBusError =>
    cases h
    refine .ofEq ?_
    split
    · split
      · split <;> simp
      · rfl
    all_goals rfl
  | faultNotifyFailed =>
    cases h
    refine .ofEq ?_
    split
    · split <;> rfl
    all_goals rfl
  | detach => cases h; exact .kept
  | reset => cases h; exact .kept
  | linkReset origin => cases h; exact .kept
  | powerOnReset levels sync => cases h; exact .powerOn levels sync
  | retentionDisturbance q record code => cases h; exact .disturb q record code

/-- Everything one step can do to the capture side: what a command does, or one microsecond. -/
theorem step_capture {s t : State} (h : step s = .next t) :
    CaptureMove s.capture t.capture ∨
    (s.pending = [] ∧ eventsDue s = [] ∧ t = { s with capture := { s.capture with
      elapsed := s.capture.elapsed + 1, timebase := s.capture.timebase.tick } }) := by
  unfold step at h
  split at h
  · rename_i c rest hp
    exact .inl (exec_capture (s := { s with pending := rest }) h)
  · rename_i hp
    unfold idleStep at h
    split at h
    · exact .inl (exec_capture h)
    · rename_i he
      unfold tick at h
      split at h
      · cases h
        exact .inr ⟨hp, he, rfl⟩
      · cases h

end Sys2Proof.Machine
end

