-- ==== Sys2Proof/Tests/Slice0.lean ====
section
/-! SUPPORT. Tests: the checks of WellFormed on ill-formed terms, the manual's check values, layouts and worked examples, each over one
command on a small state, and for every statement with hypotheses a state and operands that meet them. -/

namespace Sys2Proof.Tests

set_option Elab.async false

open Sys2Proof Sys2Proof.Machine

/-! ### Small states -/

/-- The state after a command, where it goes on. -/
def after (c : Instr) (s : State) : State :=
  match exec c s with
  | .next t => t
  | _ => s

/-- The state right after reset, but for line `i` and the elapsed count. -/
def withLine (i : LineNo) (l : Line) (now : Nat) : State :=
  { State.reset with capture := { State.reset.capture.setLine i l with elapsed := now } }

/-- A line in EVENT role with the default values, in STABLE at 0. -/
def eventLine : Line :=
  { Line.powerOn false with config := { LineConfig.powerOn with role := .event }, qualifier := .stable false }

/-- The same in CANDIDATE towards 1 since `capture`. -/
def candidateLine (capture : Nat) : Line :=
  { eventLine with
    raw := true
    qualifier := .candidate false true capture { generation := 7, timeValue := 40000900, quality := .locked } }

/-- The same with chatter limit 4, in a chatter state. -/
def chatterLine (x : Chatter) (capture : Nat) : Line :=
  { candidateLine capture with
    config := { eventLine.config with chatterLimit := 4 }
    chatter := x }

/-- The same in COUNT role with a counter. -/
def countLine (counter : BitVec 32) (capture : Nat) : Line :=
  { candidateLine capture with config := { eventLine.config with role := .count }, counter := counter }

/-- An event ring of 16 entries. -/
def ring (producer consumer : Nat) : HostRing :=
  { base := 0x3000, size := 16, producer := producer, consumer := consumer, phase := true }

/-- A vector at attachment with threshold 4 and a delay of 100 µs. -/
def vector : NotifyVector :=
  { armed := true, count := 0, timer := none, threshold := 4, delay := 100, address := 0x5000, data := 0x11 }

/-- A session with one event ring, whose command read, number 0, is in flight. -/
def session : Attached :=
  { commandRing := { base := 0x1000, size := 16, producer := 2, consumer := 0 }
    completionRing := { base := 0x2000, size := 16, producer := 1, consumer := 0, phase := true }
    eventRings := #v[some (ring 0 0), none, none, none]
    systemRing := 0
    vectors := Vector.replicate 6 vector
    command := .reading 0x1000 0 0
    archiveEngine := .idle
    due := [] }

/-- The state right after reset, but for its session and its capture side. -/
def attached (h : Attached) (c : Capture) : State := (State.withHost State.reset h).onCapture fun _ => c

/-- The capture side right after reset. -/
def fresh : Capture := State.reset.capture

/-- A staged line record of line `i` and class `k` on ring `n`, captured at instant `x`. -/
def entry (i : LineNo) (k : ClassNo) (n : RingNo) (x : Nat) : Entry :=
  { kind := .edge, line := some i, level := true, group := 2
    stamp := { generation := 9, timeValue := x, quality := .locked }
    capture := x, payload := 0, cls := some k, ring := n }

/-- An archive of one entry, number 5. -/
def oneEntry : Archive :=
  { bounds := some { oldest := 5, newest := 5 }, entries := [{ record := 0x21, code := checkCode 0x21 }] }

/-- The context of an archive command over number 5 alone. -/
def context : ArchiveContext :=
  { tag := 0x77, firstRequested := 5, rangeStart := 5, rangeEnd := 5, next := 5, done := 0, failures := 0, readFrom := 0 }

/-- What the 64 bytes of a command record with the given first bytes spell, as the answer to read 0. -/
def recordOf (bytes : List Byte) : Instr := commandOfRecord 0 (bitsOfBytes 512 (bytes ++ zeros (64 - bytes.length)))

/-! ### WellFormed refuses -/

theorem test_wf_refuses_badKind_with_defined_code : Instr.wf (.badKind 0x0C ⟨0, 0⟩) = false := by decide
theorem test_wf_refuses_unaligned_register_access : Instr.wf (.registerWrite 0x022 0 0xF) = false := by decide
theorem test_wf_refuses_entry_number_0 : Instr.wf (.retentionDisturbance 0 0 0) = false := by decide
theorem test_wf_accepts_their_neighbours :
    (Instr.wf (.badKind 0x0D ⟨0, 0⟩) && Instr.wf (.badKind 0x00 ⟨0, 0⟩) && Instr.wf (.registerWrite 0x020 0 0xF) &&
      Instr.wf (.retentionDisturbance 1 0 0)) = true := by decide

/-! ### What bytes and register writes spell (R178, R179, R180, R176), from the layouts of section 11.2 -/

theorem test_record_configureLines :
    recordOf ([0x01, 0x00, 0x34, 0x12, 0, 0, 0, 0, 0x21, 0, 0, 0, 0, 0x80, 0, 0, 0x01, 0x01, 0x03, 0x04, 0xD0, 0x07, 0, 0,
        0xE8, 0x03, 0, 0, 0x88, 0x13, 0, 0, 0x02]) =
      .configureLines ⟨0, 0x1234⟩
        { lineMask := 0x0000800000000021, role := 1, invert := 1, report := 3, debounce := 2000, chatterLimit := 4
          chatterWindow := 1000, quietTime := 5000, group := 2 } := by decide +kernel

theorem test_record_configureGroup :
    recordOf [0x02, 0, 0x05, 0, 0, 0, 0, 0, 7, 3, 2, 1] = .configureGroup ⟨0, 5⟩ 7 3 2 1 := by decide +kernel

theorem test_record_configureTimebase :
    recordOf [0x03, 0, 0x05, 0, 0, 0, 0, 0, 1, 0, 0, 0, 0xE8, 0x03, 0, 0, 0x58, 0x02, 0, 0] =
      .configureTimebase ⟨0, 5⟩ 1 0 1000 600 := by decide +kernel

theorem test_record_replay :
    recordOf [0x09, 0, 0x05, 0, 0, 0, 0, 0, 0x29, 0x23, 0, 0, 0, 0, 0, 0, 0x40, 0, 0, 0, 3] = .replay ⟨0, 5⟩ 9001 64 3 := by
  decide +kernel

theorem test_record_setNotify :
    recordOf [0x0C, 0, 0x05, 0, 0, 0, 0, 0, 4, 16, 0, 0, 0xF4, 0x01] = .setNotify ⟨0, 5⟩ 4 16 500 := by decide +kernel

theorem test_record_badKind : recordOf [0x0D, 0, 0x05] = .badKind 0x0D ⟨0, 5⟩ := by decide +kernel

theorem test_register_writes_spell :
    commandOfWrite 0x008 1 0xF = .attach ∧ commandOfWrite 0x034 9 0xF = .evtHead 1 9 ∧
      commandOfWrite 0x008 1 0x7 = .registerWrite 0x008 1 0x7 := by decide

theorem test_table_words_spell_nothing : decodeTableWord 8 1 = none := rfl

/-! ### Check values (R95, R107) and the record of section 11.2 -/

/-- The nine ASCII characters "123456789". -/
def digits : List Byte := [0x31, 0x32, 0x33, 0x34, 0x35, 0x36, 0x37, 0x38, 0x39]

theorem test_crc16_check_value : crc16 digits = 0x29B1#16 := by decide +kernel
theorem test_crc32_check_value : crc32Final (crc32Feed crc32Initial digits) = 0xCBF43926#32 := by decide +kernel

/-- The GAP of "Reading a record: an example": sequence 9001, generation 9, LOCKED, count 2, class mask of class 0. -/
def exampleGap : Record32 := (gapRecord { count := 2, classes := 1 } (entry 0 0 0 1) 9001).archived

theorem test_example_gap_on_ring :
    bytesOf 32 (withFlags true false false exampleGap) =
      [0x08, 0x21, 0xFF, 0x00, 0x09, 0, 0, 0] ++ [0x29, 0x23, 0, 0, 0, 0, 0, 0] ++ [1, 0, 0, 0, 0, 0, 0, 0] ++
      [0x02, 0, 0, 0, 0x01, 0, 0, 0] := by decide +kernel

/-- "each byte and bit not assigned to a field is written as 0": a copy of a record whose bytes are all FFh keeps the quality, the level and the group. -/
theorem test_unassigned_bits_are_written_0 :
    (bytesOf 32 (withFlags false true true (BitVec.allOnes 256))).take 5 = [0xFF, 0x36, 0xFF, 0x0F, 0xFF] := by decide +kernel

theorem test_example_gap_in_archive : fieldAt exampleGap 1 8 = 0x20#8 := by decide +kernel

/-! ### Worked examples -/

/-- "A bouncing closure": the raw change back at 1 000 180 counts a glitch and returns line 5 to STABLE 0. -/
theorem test_rawChange_glitch :
    let t := after (.rawChange 5 false) (withLine 5 (candidateLine 1000000) 1000180)
    (t.capture.line 5).qualifier = .stable false ∧ (t.capture.line 5).glitchCount = 1 ∧
      (t.capture.line 5).transitionCount = 0 := by decide +kernel

/-- "A bouncing closure": the expiry at 1 002 900 confirms, and the EDGE carries capture 1 000 900. -/
theorem test_debounceExpiry_edge :
    let l := { candidateLine 1000900 with config := { eventLine.config with debounce := 2000, group := 2 } }
    let t := after (.debounceExpiry 5) (withLine 5 l 1002900)
    (t.capture.line 5).qualifier = .stable true ∧ (t.capture.line 5).transitionCount = 1 ∧
      t.capture.staging.map (fun e => (e.line, e.level, e.group, e.stamp.timeValue, e.capture)) =
        [(some 5, true, 2, 40000900, 1000900)] := by decide +kernel

/-- "Reconfiguration during debounce": line 12 is restarted as CANDIDATE to 0, its stable level flipped to 1. -/
theorem test_configureLine_restarts_candidate :
    let l := { candidateLine 3000000 with config := { eventLine.config with debounce := 50000 } }
    let c := (withLine 12 l 3020000).capture
    ((c.configureLine { l.config with debounce := 10000, invert := true } 12).line 12).qualifier =
      .candidate true false 3020000 c.stamp := by decide +kernel

/-- "A chatter episode": the fourth transition at 10 420 000 starts the episode, with payload 4. -/
theorem test_debounceExpiry_starts_episode :
    let t := after (.debounceExpiry 20) (withLine 20 (chatterLine (.counting 3 11000000) 10419000) 10420000)
    (t.capture.line 20).chatter = .chattering 15420000 ∧ (t.capture.line 20).episodeCount = 1 ∧
      t.capture.staging.map (fun e => (e.kind, e.payload, e.capture)) = [(.chatterOn, 4, 10419000)] := by decide +kernel

/-- "A chatter episode": the window expiry at 9 000 000. -/
theorem test_windowTimerExpiry :
    let t := after (.windowTimerExpiry 20) (withLine 20 (chatterLine (.counting 2 9000000) 0) 9000000)
    (t.capture.line 20).chatter = .quiet ∧ t.capture.staging = [] := by decide +kernel

/-- "A chatter episode": the quiet expiry at 17 000 000 is stamped then. -/
theorem test_quietTimerExpiry :
    let t := after (.quietTimerExpiry 20) (withLine 20 (chatterLine (.chattering 17000000) 0) 17000000)
    (t.capture.line 20).chatter = .quiet ∧ t.capture.staging.map (fun e => (e.kind, e.capture)) = [(.chatterOff, 17000000)] := by
  decide +kernel

/-- A timebase in FREE, generation 2, accepted run 2, tolerance 1000, at a time value. -/
def timebaseAt (value : Nat) (run : BitVec 32) (q : Quality) : Timebase :=
  { Timebase.powerOn with
    timeValue := value, generation := 2, quality := q, acceptedRun := run, syncEnable := true, lastAccepted := some 0 }

/-- The state with that timebase at an elapsed count. -/
def timeState (value : Nat) (run : BitVec 32) (q : Quality) (now : Nat) : State :=
  { State.reset with capture := { fresh with timebase := timebaseAt value run q, elapsed := now } }

/-- "Pulses, a hold and a step": 600 µs behind, a step forward. -/
theorem test_syncPulse_steps_forward :
    let t := after (.syncPulse true) (timeState 800000999400 2 .free 20000000)
    t.capture.timebase.timeValue = 800001000000 ∧ t.capture.timebase.acceptedRun = 3 ∧
      t.capture.timebase.quality = .free := by decide +kernel

/-- "Pulses, a hold and a step": the fourth accepted pulse locks; 300 µs ahead begins a hold to 22 000 300. -/
theorem test_syncPulse_locks_and_holds :
    (after (.syncPulse true) (timeState 800001000000 3 .free 21000000)).capture.timebase.quality = .locked ∧
      (after (.syncPulse true) (timeState 800003000300 4 .locked 22000000)).capture.timebase.holdExpiry = some 22000300 := by
  decide +kernel

/-- "Pulses, a hold and a step": the loss expiry at 24 500 000. -/
theorem test_lossExpiry :
    let s := timeState 1 5 .locked 24500000
    let t := after .lossExpiry { s with capture := { s.capture with
      timebase := { s.capture.timebase with lastAccepted := some 22000000 } } }
    t.capture.timebase.quality = .holdover ∧ t.capture.timebase.holdoverEntry = some 24500000 := by decide +kernel

/-- The head writes of section 7.3: consumer 14, producer 3, size 16. -/
theorem test_head_write_span :
    (List.range 17).filter (fun v => (ring 3 14).validHead v) = [0, 1, 2, 3, 14, 15] := by decide +kernel

/-- A tie of keys: a later record of equal key is inserted behind (R59). -/
theorem test_insert_after_equal_key :
    (insertByKey { entry 3 0 0 9 with payload := 2 } [{ entry 3 0 0 9 with payload := 1 }, entry 4 0 0 9]).map
      (fun e => e.payload) = [1, 2, 0] := by decide +kernel

/-- The hold of "Pulses, a hold and a step": a microsecond passes and the time value stands still (R39, R46). -/
theorem test_tick_during_hold :
    tick { timeState 800003000300 5 .locked 22000100 with
        capture := { (timeState 800003000300 5 .locked 22000100).capture with
          timebase := { timebaseAt 800003000300 5 .locked with holdExpiry := some 22000300 } } } =
      .next { timeState 800003000300 5 .locked 22000101 with
        capture := { (timeState 800003000300 5 .locked 22000101).capture with
          timebase := { timebaseAt 800003000300 5 .locked with holdExpiry := some 22000300 } } } := rfl

/-- The answer to read 0, abandoned by a DETACH, finds the block read of the session that follows in flight and is discarded (R154,
R161). -/
theorem test_abandoned_read_is_discarded :
    let s := { State.reset with reads := 1, host := { State.reset.host with session := .attaching 0x4000 0 0 } }
    let t := after .attach (after .detach s)
    t.host.session = .attaching 0 0 1 ∧ after (.initBusError (.badCompletion 0)) t = t ∧
      (after (.initBusError (.badCompletion 1)) t).host.session = .faulted none := by decide +kernel

/-- A snapshot of a line without room for its record: shed, and with the clear flag its counter is 0 all the same (R35, R36). -/
theorem test_snapshotCounters_sheds :
    let c := { (withLine 5 (countLine 9 1000) 1500).capture with staging := List.replicate 504 (entry 3 0 0 9), highWater := 504 }
    let t := after (.snapshotCounters ⟨0, 7⟩ 0xFF 1) (attached session c)
    (t.capture.line 5).counter = 0 ∧ (t.capture.line 5).shedCount = 1 ∧ t.capture.staging.length = 504 ∧
      (t.capture.tallies.get 0).count = 1 := by decide +kernel

/-! ### States and operands that meet the hypotheses of each statement

One theorem for each statement that has hypotheses, with a part for each clause, at a boundary value where the clause has a range. The
states are those above; none is a result of the model. -/

/-- Nothing is due in the reset state, at any elapsed count. -/
theorem nothingDue_fresh (now : Nat) : NothingDue { State.reset with capture := { fresh with elapsed := now } } := by
  have q : ∀ i, (fresh.line i).qualifier = .off := by decide +kernel
  have x : ∀ i, (fresh.line i).chatter = .quiet := by decide +kernel
  refine ⟨fun i _ _ _ _ e => ?_, fun i _ _ e => ?_, fun i _ e => ?_, nofun, nofun, nofun, fun _ e => ?_, nofun, nofun, nofun, nofun,
    nofun, nofun, nofun, nofun⟩
  · exact absurd ((q i).symm.trans e) nofun
  · exact absurd ((x i).symm.trans e) nofun
  · exact absurd ((x i).symm.trans e) nofun
  · obtain ⟨_, h, _⟩ := e
    cases h

theorem test_premises_IdleStepTakesDueEventOrMicrosecond :
    (State.reset.pending = [] ∧ eventsDue (withLine 5 (candidateLine 1000) 2000) = [.debounceExpiry 5]) ∧
    (NothingDue State.reset ∧ State.reset.capture.elapsed + 1 < 2 ^ 64) ∧
    (NothingDue { State.reset with capture := { fresh with elapsed := 2 ^ 64 - 1 } } ∧ 2 ^ 64 ≤ (2 ^ 64 - 1) + 1) :=
  ⟨by decide +kernel, ⟨nothingDue_fresh 0, by decide⟩, nothingDue_fresh _, by decide⟩

theorem test_premises_DueEventsChangeTheState :
    Instr.debounceExpiry 5 ∈ eventsDue (withLine 5 (candidateLine 1000) 2000) := by decide +kernel

theorem test_premises_SidesKeptApart :
    (∃ t, exec .commandTake State.reset = .next t) ∧ ∃ t, exec (.rawChange 0 true) State.reset = .next t := ⟨⟨_, rfl⟩, ⟨_, rfl⟩⟩

theorem test_premises_RawChangeInOff :
    (State.reset.capture.line 47).qualifier = .off ∧ (fresh.line 47).config.role = .off ∧ eventLine.config.role ≠ .off := by
  decide +kernel

theorem test_premises_RawChangeStartsOrCancelsCandidate :
    (((withLine 5 eventLine 9).capture.line 5).raw ≠ true ∧
      ((withLine 5 eventLine 9).capture.line 5).qualifier = .stable false ∧
      0 < ((withLine 5 eventLine 9).capture.line 5).config.debounce) ∧
    (((withLine 5 (candidateLine 9) 9).capture.line 5).raw ≠ false ∧
      ((withLine 5 (candidateLine 9) 9).capture.line 5).qualifier.moment = some ⟨9, 7, 40000900⟩) := by decide +kernel

/-- A due expiry of line 5 confirms. -/
theorem confirms_expiry (l : Line) (h : l.qualifier = .candidate false true 1000
      { generation := 7, timeValue := 40000900, quality := .locked }) (d : l.config.debounce = 1000) :
    Confirms (withLine 5 l 2000) 5 (.debounceExpiry 5) l true 1000
      { generation := 7, timeValue := 40000900, quality := .locked } := by
  have e : (withLine 5 l 2000).capture.line 5 = l := State.reset.capture.line_setLine_same 5 l
  have c := Confirms.expiry (s := withLine 5 l 2000) (i := 5) false true 1000
    { generation := 7, timeValue := 40000900, quality := .locked } (by rw [e]; exact h)
    (by rw [e, d]; show 1000 + 1000 ≤ 2000; omega)
  rw [e] at c
  exact c

theorem test_premises_ConfirmationReportsEdge :
    (∃ s c l t x y z, Confirms s 5 c l t x y ∧ l.config.role = .event ∧ l.config.chatterLimit = 0 ∧
      CountsTransition s.capture.elapsed l z) ∧
    (∃ s c l t x y z, Confirms s 5 c l t x y ∧ l.config.role = .event ∧ l.chatter = .quiet ∧ l.config.chatterLimit = 4 ∧
      CountsTransition s.capture.elapsed l z) ∧
    (∃ s c l t x y z, Confirms s 5 c l t x y ∧ l.config.role = .event ∧ l.chatter = .counting 2 5000 ∧
      l.config.chatterLimit = 4 ∧ CountsTransition s.capture.elapsed l z) :=
  ⟨⟨_, _, _, _, _, _, _, confirms_expiry (candidateLine 1000) rfl rfl, rfl, rfl, .notInForce rfl⟩,
   ⟨_, _, _, _, _, _, _, confirms_expiry (chatterLine .quiet 1000) rfl rfl, rfl, rfl, rfl, .opens (by decide) rfl⟩,
   ⟨_, _, _, _, _, _, _, confirms_expiry (chatterLine (.counting 2 5000) 1000) rfl rfl, rfl, rfl, rfl,
     .counts 2 5000 rfl (by decide)⟩⟩

theorem test_premises_Confirms_change :
    ∃ s c l t x y, Confirms s 5 c l t x y ∧ l.config.debounce = 0 ∧ ∃ raw, c = .rawChange 5 raw := by
  let l : Line := { eventLine with config := { eventLine.config with debounce := 0 } }
  have e : (withLine 5 l 9).capture.line 5 = l := State.reset.capture.line_setLine_same 5 l
  exact ⟨withLine 5 l 9, _, _, _, _, _, .change true false (by rw [e]; rfl) (by rw [e]) (by rw [e]; decide),
    by rw [e], true, rfl⟩

theorem test_premises_ConfirmationInChatter :
    (∃ s c l t x y, Confirms s 5 c l t x y ∧ l.config.role = .event ∧ l.config.chatterLimit ≠ 0 ∧
      l.chatter = .counting 3 5000 ∧ l.config.chatterLimit ≤ 3 + 1) ∧
    (∃ s c l t x y, Confirms s 5 c l t x y ∧ l.config.role = .event ∧ l.config.chatterLimit ≠ 0 ∧
      l.chatter = .chattering 5000) :=
  ⟨⟨_, _, _, _, _, _, confirms_expiry (chatterLine (.counting 3 5000) 1000) rfl rfl, rfl, by decide, rfl, by decide⟩,
   ⟨_, _, _, _, _, _, confirms_expiry (chatterLine (.chattering 5000) 1000) rfl rfl, rfl, by decide, rfl⟩⟩

theorem test_premises_ConfirmationCounts :
    ∃ s c l t x y, Confirms s 5 c l t x y ∧ l.config.role = .count ∧ l.counter = 0xFFFFFFFF#32 ∧ Reported l.config.report t :=
  ⟨_, _, _, _, _, _, confirms_expiry (countLine 0xFFFFFFFF#32 1000) rfl rfl, rfl, rfl, .inl rfl⟩

theorem test_premises_WindowExpiryClosesWindow :
    ((withLine 5 (chatterLine (.counting 1 2000) 0) 2000).capture.line 5).chatter = .counting 1 2000 ∧
      ((withLine 5 (chatterLine (.counting 1 2000) 0) 2000).capture.line 5).config.role = .event ∧
      ((withLine 5 (chatterLine (.counting 1 2000) 0) 2000).capture.line 5).config.chatterLimit ≠ 0 ∧
      2000 ≤ (withLine 5 (chatterLine (.counting 1 2000) 0) 2000).capture.elapsed := by decide +kernel

theorem test_premises_QuietExpiryEndsEpisode :
    ((withLine 5 (chatterLine (.chattering 2000) 0) 2000).capture.line 5).chatter = .chattering 2000 ∧
      2000 ≤ (withLine 5 (chatterLine (.chattering 2000) 0) 2000).capture.elapsed := by decide +kernel

/-- A state whose capture side is the fresh one with a given timebase and elapsed count. -/
def withTimebase (t : Timebase) (now : Nat) : State := { State.reset with capture := { fresh with timebase := t, elapsed := now } }

/-- A state whose staging queue is given, at an elapsed count. -/
def holding (q : List Entry) (now : Nat) : Capture := { fresh with staging := q, elapsed := now }

theorem line_withLine (i : LineNo) (l : Line) (now : Nat) : (withLine i l now).capture.line i = l :=
  State.reset.capture.line_setLine_same i l

/-- A due write of the given source, due at 0. -/
def dueWrite (x : WriteSource) : DueWrite := { source := x, address := 0x6000, data := [1, 2, 3, 4], dueAt := 0 }

theorem test_premises_EventsThatFindNoCauseHaveNoEffect :
    (∀ level target capture stamp, ((withLine 5 (candidateLine 1000) 1999).capture.line 5).qualifier =
        .candidate level target capture stamp →
      1999 < capture + ((withLine 5 (candidateLine 1000) 1999).capture.line 5).config.debounce) ∧
    (∀ count window, ((withLine 5 (chatterLine (.counting 1 2000) 0) 1999).capture.line 5).chatter = .counting count window →
      1999 < window) ∧
    (∀ quiet, ((withLine 5 (chatterLine (.chattering 2000) 0) 1999).capture.line 5).chatter = .chattering quiet → 1999 < quiet) ∧
    (∀ x, ({ timebaseAt 7 5 .locked with holdExpiry := some 2000 } : Timebase).holdExpiry = some x → 1999 < x) ∧
    (∀ x, (timebaseAt 7 5 .locked).lastAccepted = some x → 2499999 < x + 2500000) ∧
    (∀ x, ({ timebaseAt 7 5 .holdover with holdoverEntry := some 3 } : Timebase).holdoverEntry = some x →
      600000002 < x + (timebaseAt 7 5 .holdover).holdoverLimit * 1000000) ∧
    (∀ e, (holding [entry 3 0 0 9] 508).staging.find? (fun e => decide (e.ring = 0)) = some e →
      508 < e.capture + (holding [entry 3 0 0 9] 508).horizon) ∧
    (∃ r, (attached { session with eventRings := #v[some (ring 15 0), none, none, none] } fresh).attachedRing 0 = some r ∧
      r.size - 1 ≤ r.occupied) ∧
    (∀ x, ({ session with vectors := session.vectors.set 2 { vector with timer := some 100 } }.vectors.get 2).timer = some x →
      99 < x) ∧
    ¬ SyncPulseAt (timeState 7 5 .locked 9).capture false ∧
    ((commandHeader (.getTime ⟨1, 7⟩)).isSome = true ∧ (Instr.getTime ⟨1, 7⟩).answeredRead = some 1 ∧
      (Instr.badKind 0x0D ⟨0, 7⟩).answeredRead = some 0) ∧
    (∀ h, ¬ ReadInFlight State.reset 0 h) ∧ (∀ h, ¬ ReadInFlight (attached session fresh) 1 h) ∧
    (∀ h, ¬ ReadInFlight (attached session { fresh with elapsed := 50001 }) 0 h) ∧
    (∀ h address dueAt number, (attached session { fresh with elapsed := 49999 }).host.session = .attached h →
      h.command = .reading address dueAt number → 49999 < dueAt + 50000) ∧
    (∀ address dueAt, Session.attaching 0x4000 7 0 = .attaching address dueAt 0 → dueAt + 50000 < 50008) ∧
    (∀ address dueAt, Session.attaching 0x4000 7 0 = .attaching address dueAt 1 → dueAt + 50000 < 0) ∧
    (∀ address dueAt number, Session.attaching 0x4000 7 0 = .attaching address dueAt number → 50006 < dueAt + 50000) ∧
    (49999 < (dueWrite .buffer).dueAt + 50000 ∧ (dueWrite .buffer).dueAt + 50000 < 50001) ∧
    ((∀ x n, session.archiveEngine ≠ .replaying x n none) ∧ (∀ x n copy, session.archiveEngine ≠ .replaying x n (some copy)) ∧
      ∀ x crc, session.archiveEngine ≠ .verifying x crc) := by
  refine ⟨?_, ?_, ?_, ?_, ?_, ?_, ?_, ⟨_, rfl, by decide⟩, ?_, by decide, by decide, ?_, ?_, ?_, ?_, ?_, ?_, ?_, by decide,
    fun _ _ => nofun, fun _ _ _ => nofun, fun _ _ => nofun⟩
  · intro _ _ _ _ h; rw [line_withLine] at h ⊢; cases h; decide
  · intro _ _ h; rw [line_withLine] at h; cases h; decide
  · intro _ h; rw [line_withLine] at h; cases h; decide
  · intro _ h; cases h; decide
  · intro _ h; cases h; decide
  · intro _ h; cases h; decide
  · intro _ h; cases h; decide
  · intro _ h; cases h; decide
  · intro _ h; cases h.1
  · rintro _ ⟨h, _, _, x, _⟩; cases h; cases x
  · rintro _ ⟨h, _, _, x, y⟩; cases h; cases x; exact absurd y (by decide)
  · intro _ _ _ _ h x; cases h; cases x; decide
  · intro _ _ h; cases h; decide
  · intro _ _ h; cases h
  · intro _ _ _ h; cases h; decide

theorem readInFlight_session (c : Capture) (h : Attached) (read : h.command = .reading 0x1000 0 0) (now : c.elapsed ≤ 50000) :
    ReadInFlight (attached h c) 0 h :=
  ⟨rfl, 0x1000, 0, read, by show c.elapsed ≤ 0 + 50000; omega⟩

/-- The parameters of a CONFIGURE_LINES with every field at the top of its range. -/
def topParams (debounce : BitVec 32) : LineParams :=
  { lineMask := 0x0000FFFFFFFFFFFF, role := 2, invert := 1, report := 3, debounce := debounce, chatterLimit := 255
    chatterWindow := 60000, quietTime := 600000, group := 7 }

theorem accepted_topParams (debounce : BitVec 32) (h : debounce ≤ 200000) : Accepted (.configureLines ⟨0, 0xFFFE⟩ (topParams debounce)) := by
  intro k
  rcases k with _ | _ | _ | _ | _ | _ | _ | _ | _ | _ | _ | k
  · trivial
  · show 0xFFFE#16 ≠ 0xFFFF; decide
  · refine ⟨by show (0x0000FFFFFFFFFFFF : BitVec 64) ≠ 0; decide, fun b hb => ?_⟩
    show (0x0000FFFFFFFFFFFF#64).getLsbD b = false
    by_cases h64 : b < 64
    · interval_cases b <;> rfl
    · exact BitVec.getLsbD_of_ge _ _ (by omega)
  · show (2 : Byte) ≤ 2; decide
  · show (1 : Byte) ≤ 1; decide
  · show (3 : Byte) ≤ 3; decide
  · exact h
  · show (255 : Byte) ≠ 1; decide
  · show 1 ≤ (60000 : BitVec 32) ∧ (60000 : BitVec 32) ≤ 60000; decide
  · show 1 ≤ (600000 : BitVec 32) ∧ (600000 : BitVec 32) ≤ 600000; decide
  · show (7 : Byte) ≤ 7; decide
  · trivial

theorem linesSound_withLine (l : Line) (h : l.Sound) (now : Nat) : LinesSound (withLine 5 l now).capture := by
  intro i
  by_cases e : i = 5
  · subst e; rw [line_withLine]; exact h
  · have : (withLine 5 l now).capture.line i = Line.powerOn false := by
      show (State.reset.capture.setLine 5 l).line i = _
      rw [Capture.line_setLine_other _ _ e]
      simp [State.reset, Capture.line, Capture.powerOn]
    rw [this]; exact ⟨by decide, rfl, trivial, fun _ => rfl⟩

theorem test_premises_ConfigureLinesAccepted :
    ReadInFlight (attached session fresh) 0 session ∧
    ReadInFlight (attached session { fresh with elapsed := 50000 }) 0 session ∧
    Accepted (.configureLines ⟨0, 0xFFFE⟩ (topParams 200000)) ∧ Accepted (.configureLines ⟨0, 0xFFFE⟩ (topParams 0)) ∧
    LinesSound (withLine 5 (candidateLine 1000) 1500).capture ∧
    ((withLine 5 (candidateLine 1000) 1500).capture.line 5).qualifier.moment ≠ none ∧
    ((withLine 5 (candidateLine 1000) 1500).capture.line 4).qualifier.moment = none :=
  ⟨readInFlight_session _ _ rfl (by decide), readInFlight_session _ _ rfl (by decide), accepted_topParams _ (by decide),
    accepted_topParams _ (by decide), linesSound_withLine (candidateLine 1000) ⟨by decide, ⟨by decide, rfl, rfl⟩, trivial, fun _ => rfl⟩ _, by decide +kernel, by decide +kernel⟩

theorem test_premises_ReconfigurationClosesEpisode :
    (∃ quiet, (chatterLine (.chattering 9) 3).chatter = .chattering quiet) ∧
    (chatterLine (.chattering 9) 3).Sound ∧ ({ eventLine with chatter := .quiet } : Line).Sound ∧
    (countLine 0xFFFFFFFF#32 3).Sound ∧
    ({ eventLine with chatter := .quiet } : Line).qualifier.moment = none ∧
    (LineConfig.powerOn.debounce ≠ 0 ∧ LineConfig.powerOn.role = .off) ∧
    ((chatterLine (.chattering 9) 3).qualifier.moment ≠ none ∧
      ({ eventLine.config with debounce := 0 } : LineConfig).debounce = 0 ∧
      ({ eventLine.config with debounce := 0 } : LineConfig).role = .event) ∧
    ((countLine 0xFFFFFFFF#32 3).qualifier.moment ≠ none ∧
      ({ LineConfig.powerOn with role := .count, debounce := 0 } : LineConfig).role = .count) :=
  ⟨⟨9, rfl⟩, ⟨by decide, ⟨by decide, rfl, rfl⟩, rfl, fun _ => rfl⟩, ⟨by decide, ⟨by decide, rfl⟩, trivial, fun _ => rfl⟩,
    ⟨by decide, ⟨by decide, rfl, rfl⟩, trivial, nofun⟩, rfl, by decide, by decide, by decide⟩

theorem test_premises_SyncPulseEvaluated :
    SyncPulseAt (timeState 1001000 2 .free 9).capture true ∧
    ((1001000 % 1000000 = 1000 ∧ 1000 ≤ (timebaseAt 1001000 2 .free).tolerance) ∧
    (1999000 % 1000000 = 999000 ∧ 1000000 - 999000 ≤ (timebaseAt 1999000 2 .free).tolerance) ∧
    (1001001 % 1000000 = 1001 ∧ (timebaseAt 1001001 2 .free).tolerance < 1001) ∧
    SyncPulseAt { (timeState 5 2 .locked 9).capture with
      syncLevel := true, timebase := { timebaseAt 5 2 .locked with activeEdge := .falling } } false) := by decide

theorem test_premises_TimebaseExpiries :
    (∃ s : State, s = withTimebase { timebaseAt 7 5 .locked with holdExpiry := some 2000 } 2000 ∧
      s.capture.timebase.holdExpiry = some 2000 ∧ 2000 ≤ s.capture.elapsed) ∧
    (∃ s : State, s = withTimebase (timebaseAt 7 5 .locked) 2500000 ∧ s.capture.timebase.quality = .locked ∧
      s.capture.timebase.lastAccepted = some 0 ∧ 0 + 2500000 ≤ s.capture.elapsed) ∧
    (∃ s : State, s = withTimebase { timebaseAt 7 5 .holdover with holdoverEntry := some 3 } 600000003 ∧
      s.capture.timebase.quality = .holdover ∧ s.capture.timebase.holdoverEntry = some 3 ∧
      3 + s.capture.timebase.holdoverLimit * 1000000 ≤ s.capture.elapsed) :=
  ⟨⟨_, rfl, rfl, by decide⟩, ⟨_, rfl, rfl, rfl, by decide⟩, ⟨_, rfl, rfl, rfl, by decide⟩⟩

theorem test_premises_ConfigureTimebaseAccepted :
    ReadInFlight (attached session fresh) 0 session ∧ Accepted (.configureTimebase ⟨0, 1⟩ 1 1 50000 86400) ∧
    Accepted (.configureTimebase ⟨0, 1⟩ 0 0 1 1) := by
  refine ⟨readInFlight_session _ _ rfl (by decide), ?_, ?_⟩ <;>
    intro k <;> unfold FieldOk <;> split <;> first | trivial | (rename_i e; cases e; first | assumption | decide)

theorem accepted_setTime (value : BitVec 64) (h : value < 0x8000000000000000) : Accepted (.setTime ⟨0, 7⟩ value) := by
  intro k; unfold FieldOk; split <;> first | trivial | (rename_i e; cases e; first | assumption | decide)

/-- A TIME_STEP entry for ring 0 captured at an instant. -/
def stepEntry (x : Nat) : Entry := { entry 0 0 0 x with kind := .timeStep, line := none, cls := none }

theorem replicate_sound (n : Nat) (e : Entry) (h : n ≤ 512) (lines : lineRecords (List.replicate n e) ≤ 504) (now : Nat) :
    StagingSound (holding (List.replicate n e) now) := by
  refine ⟨?_, (List.length_replicate).trans_le h, lines, Nat.zero_le _⟩
  refine List.pairwise_replicate.2 (.inr ?_)
  simp [Entry.keyLe]

theorem test_premises_SetTimeRefused :
    Accepted (.setTime ⟨0, 7⟩ 0x7FFFFFFFFFFFFFFF) ∧
    (∃ s, ReadInFlight s 0 session ∧ s.capture.timebase.generation = 0xFFFFFFFF#32) ∧
    (∃ s, ReadInFlight s 0 session ∧ s.capture.timebase.generation ≠ 0xFFFFFFFF#32 ∧ s.capture.staging.length = 512) ∧
    (∃ s, ReadInFlight s 0 session ∧ s.capture.timebase.generation ≠ 0xFFFFFFFF#32 ∧ s.capture.staging.length < 512) :=
  ⟨accepted_setTime _ (by decide),
   ⟨attached session { fresh with timebase := { Timebase.powerOn with generation := 0xFFFFFFFF } },
     readInFlight_session _ _ rfl (by decide), rfl⟩,
   ⟨attached session (holding (List.replicate 512 (stepEntry 9)) 9), readInFlight_session _ _ rfl (by decide), by decide,
     List.length_replicate⟩,
   ⟨attached session (holding (List.replicate 511 (stepEntry 9)) 50000), readInFlight_session _ _ rfl (by decide), by decide,
     (List.length_replicate).trans_lt (by decide)⟩⟩

theorem test_premises_SetTimeAccepted :
    ReadInFlight (attached session fresh) 0 session ∧ Accepted (.setTime ⟨0, 7⟩ 0) ∧
    (attached session fresh).capture.timebase.generation ≠ 0xFFFFFFFF#32 ∧
    (attached session fresh).capture.staging.length < 512 :=
  ⟨readInFlight_session _ _ rfl (by decide), accepted_setTime _ (by decide), by decide, by decide⟩

theorem test_premises_GetTimeReports :
    ReadInFlight (attached session fresh) 0 session ∧ Accepted (.getTime ⟨0, 0⟩) := by
  refine ⟨readInFlight_session _ _ rfl (by decide), ?_⟩
  intro k; unfold FieldOk; split <;> first | trivial | (rename_i e; cases e; first | assumption | decide)

theorem test_premises_StagingInsertsInKeyOrder :
    (StagingSound (holding (List.replicate 511 (stepEntry 9)) 9) ∧ (stepEntry 7).isLineRecord = false ∧
      (holding (List.replicate 511 (stepEntry 9)) 9).staging.length < 512) ∧
    (StagingSound (holding (List.replicate 503 (entry 3 0 0 9)) 9) ∧
      (holding (List.replicate 503 (entry 3 0 0 9)) 9).staging.length < 512 ∧
      lineRecords (holding (List.replicate 503 (entry 3 0 0 9)) 9).staging < 504) := by
  refine ⟨⟨replicate_sound _ _ (by decide) (by decide +kernel) _, rfl, (List.length_replicate).trans_lt (by decide)⟩,
    replicate_sound _ _ (by decide) (by decide +kernel) _, (List.length_replicate).trans_lt (by decide), by decide +kernel⟩

theorem test_premises_FullStagingSheds :
    (StagingSound (holding (List.replicate 504 (entry 3 0 0 9)) 9) ∧ (entry 4 1 0 9).cls = some 1 ∧
      lineRecords (holding (List.replicate 504 (entry 3 0 0 9)) 9).staging = 504) ∧
    (StagingSound (holding (List.replicate 512 (stepEntry 9)) 9) ∧
      (holding (List.replicate 512 (stepEntry 9)) 9).staging.length = 512) :=
  ⟨⟨replicate_sound _ _ (by decide) (by decide +kernel) _, rfl, by decide +kernel⟩,
    replicate_sound _ _ (by decide) (by decide +kernel) _, List.length_replicate⟩

/-- Two entries of one generation, captured 3 µs apart, at the instant at which the later one is eligible. -/
def twoEntries : Capture :=
  { holding [entry 3 0 0 9, entry 4 0 1 12] 512 with
    timebase := { timebaseAt 700 2 .free with generation := 9 } }

theorem test_premises_EligibleEntriesComeFirst :
    StagingSound twoEntries ∧ StampsSound twoEntries ∧
    twoEntries.staging = [] ++ entry 3 0 0 9 :: [] ++ entry 4 0 1 12 :: [] ∧ twoEntries.horizon ≤ twoEntries.elapsed - 12 :=
  ⟨by decide +kernel, by decide +kernel, rfl, by decide⟩

theorem test_premises_ReleaseStepReleasesEntry :
    (∃ (s : State) (before after : List Entry) (e : Entry), s.capture.staging = before ++ e :: after ∧
      (∀ x ∈ before, x.ring ≠ 1) ∧ e.ring = 1 ∧ e.capture + s.capture.horizon ≤ s.capture.elapsed ∧
      (s.capture.tallies.get 1).count = 0 ∧ s.attachedRing 1 = none) ∧
    (∃ (s : State) (r : HostRing) (after : List Entry) (e : Entry), s.capture.staging = [] ++ e :: after ∧ e.ring = 0 ∧
      e.capture + s.capture.horizon ≤ s.capture.elapsed ∧ (s.capture.tallies.get 0).count = 0 ∧ s.attachedRing 0 = some r ∧
      r.occupied < r.size - 1) :=
  ⟨⟨attached session twoEntries, [entry 3 0 0 9], [], entry 4 0 1 12, rfl, by decide, rfl, by decide, by decide +kernel, rfl⟩,
   ⟨attached { session with eventRings := #v[some (ring 14 0), none, none, none] } twoEntries, _, _, _, rfl, rfl, by decide,
     by decide +kernel, rfl, by decide⟩⟩

theorem test_premises_ReleaseStepReleasesGap :
    ∃ (s : State) (after : List Entry) (e : Entry), s.capture.staging = [] ++ e :: after ∧ e.ring = 0 ∧
      e.capture + s.capture.horizon ≤ s.capture.elapsed ∧ (s.capture.tallies.get 0).count ≠ 0 ∧
      ∀ r, s.attachedRing 0 = some r → r.occupied < r.size - 1 :=
  ⟨State.reset.onCapture fun _ => { twoEntries with tallies := twoEntries.tallies.set 0 { count := 1, classes := 1 } }, _, _,
    rfl, rfl, by decide, by decide +kernel, fun _ => nofun⟩

theorem test_premises_CountersLaw :
    (∃ t, step State.reset = .next t) ∧ (∀ levels sync, State.reset.pending.head? ≠ some (.powerOnReset levels sync)) ∧
    ArchiveSound State.reset.capture := ⟨⟨_, rfl⟩, fun _ _ => nofun, rfl, rfl⟩

/-- A full archive, and the capture side that holds it. -/
def fullArchive : Capture :=
  { fresh with
    sequence := 16385
    archive := { bounds := some { oldest := 1, newest := 16384 }, entries := List.replicate 16384 { record := 0, code := 0 } } }

theorem test_premises_ArchiveAppendKeepsEntries :
    ArchiveSound fullArchive ∧ ArchiveSound fresh ∧ ArchiveSound { fresh with sequence := 6, archive := oneEntry } := by
  refine ⟨⟨by decide, by decide, rfl, ?_, ?_⟩, ⟨rfl, rfl⟩, by decide, by decide, rfl, rfl, by decide⟩
  · exact List.length_replicate
  · exact (List.length_replicate).le

theorem test_premises_RetentionDisturbanceChangesOneEntry :
    (oneEntry.find 5).isSome = true ∧ fresh.archive.bounds = none ∧ oneEntry.bounds = some { oldest := 5, newest := 5 } ∧
      (4 < 5 ∧ 5 < 6) := by decide

theorem accepted_replay (first : BitVec 64) (h : first ≠ 0) (count : BitVec 32) (range : 1 ≤ count ∧ count ≤ 16384) :
    Accepted (.replay ⟨0, 1⟩ first count 3) := by
  intro k; unfold FieldOk; split <;> first | trivial | (rename_i e; cases e; first | assumption | decide)

theorem test_premises_ArchiveCommandTaken :
    ReadInFlight (attached session fresh) 0 session ∧ (Accepted (.replay ⟨0, 1⟩ 1 16384 3) ∧ (3 : Byte).toNat = (3 : RingNo).val) ∧
    Accepted (.verifyArchive ⟨0, 1⟩ 0xFFFFFFFFFFFFFFFF 1) := by
  refine ⟨readInFlight_session _ _ rfl (by decide), ⟨accepted_replay _ (by decide) _ (by decide), rfl⟩, ?_⟩
  intro k; unfold FieldOk; split <;> first | trivial | (rename_i e; cases e; first | assumption | decide)

/-- A session whose archive engine runs a REPLAY to ring 0, with or without a held copy. -/
def replaying (copy : Option HeldCopy) (r : HostRing) : Attached :=
  { session with archiveEngine := .replaying context 0 copy, eventRings := #v[some r, none, none, none] }

/-- A capture side whose archive is given. -/
def storing (a : Archive) : Capture := { fresh with sequence := a.newest + 1, archive := a }

theorem test_premises_ReplayReadKeepsCopy :
    (∃ (s : State) (h : Attached) (x : ArchiveContext) (n : RingNo), s.host.session = .attached h ∧ h.archiveEngine = .replaying x n none ∧ (s.capture.archive.find x.next).isSome) ∧
    (∃ (s : State) (h : Attached) (x : ArchiveContext) (n : RingNo) (b : ArchiveBounds), s.host.session = .attached h ∧ h.archiveEngine = .replaying x n none ∧ s.capture.archive.bounds = some b ∧
      x.next < b.oldest) :=
  ⟨⟨attached (replaying none (ring 0 0)) (storing oneEntry), _, _, _, rfl, rfl, rfl⟩,
   ⟨attached (replaying none (ring 0 0)) (storing { oneEntry with bounds := some { oldest := 6, newest := 6 } }), _, _, _, _,
     rfl, rfl, rfl, by decide⟩⟩

theorem test_premises_ReplayGrantDeliversCopy :
    (∃ (s : State) (h : Attached) (x : ArchiveContext) (copy : HeldCopy) (r : HostRing), s.host.session = .attached h ∧ h.archiveEngine = .replaying x 0 (some copy) ∧
      h.eventRings.get 0 = some r ∧ r.occupied < r.size - 1 ∧
      ∀ e, s.capture.firstFor 0 = some e → s.capture.elapsed < e.capture + s.capture.horizon) ∧
    (∃ (s : State) (h : Attached) (x : ArchiveContext) (copy : HeldCopy) (r : HostRing), s.host.session = .attached h ∧ h.archiveEngine = .replaying x 0 (some copy) ∧
      h.eventRings.get 0 = some r ∧ r.size - 1 ≤ r.occupied) ∧
    (∃ (s : State) (h : Attached) (x : ArchiveContext) (copy : HeldCopy) (r : HostRing) (e : Entry), s.host.session = .attached h ∧ h.archiveEngine = .replaying x 0 (some copy) ∧
      h.eventRings.get 0 = some r ∧ s.capture.firstFor 0 = some e ∧ e.capture + s.capture.horizon ≤ s.capture.elapsed) :=
  ⟨⟨attached (replaying (some { record := 0x21, failed := true }) (ring 14 0)) (holding [entry 3 0 0 9] 508), _, _, _, _,
     rfl, rfl, rfl, by decide, fun _ h => by cases h; decide⟩,
   ⟨attached (replaying (some { record := 0x21, failed := true }) (ring 15 0)) fresh, _, _, _, _, rfl, rfl, rfl, by decide⟩,
   ⟨attached (replaying (some { record := 0x21, failed := true }) (ring 14 0)) (holding [entry 3 0 0 9] 509), _, _, _, _, _,
     rfl, rfl, rfl, rfl, by decide⟩⟩

theorem test_premises_VerifyReadCoversEntry :
    (∃ (s : State) (h : Attached) (x : ArchiveContext) (crc : BitVec 32), s.host.session = .attached h ∧ h.archiveEngine = .verifying x crc ∧
      (s.capture.archive.find x.next).isSome) ∧
    (∃ (s : State) (h : Attached) (x : ArchiveContext) (crc : BitVec 32) (b : ArchiveBounds), s.host.session = .attached h ∧ h.archiveEngine = .verifying x crc ∧ s.capture.archive.bounds = some b ∧
      x.next < b.oldest) :=
  ⟨⟨attached { session with archiveEngine := .verifying context 0 } (storing oneEntry), _, _, _, rfl, rfl, rfl⟩,
   ⟨attached { session with archiveEngine := .verifying context 0 }
      (storing { oneEntry with bounds := some { oldest := 6, newest := 6 } }), _, _, _, _, rfl, rfl, rfl, by decide⟩⟩

theorem test_premises_AbortEndsRunningCommand :
    ReadInFlight (attached (replaying none (ring 0 0)) fresh) 0 (replaying none (ring 0 0)) ∧
    ReadInFlight (attached { session with archiveEngine := .verifying context 0 } fresh) 0
      { session with archiveEngine := .verifying context 0 } ∧
    Accepted (.abort ⟨0, 1⟩ 0x77) ∧ context.tag = 0x77 ∧
    ((∀ x n copy, session.archiveEngine = .replaying x n copy → x.tag ≠ 0x77) ∧
      ∀ x crc, session.archiveEngine = .verifying x crc → x.tag ≠ 0x77) := by
  refine ⟨readInFlight_session _ _ rfl (by decide), readInFlight_session _ _ rfl (by decide), ?_, rfl,
    fun _ _ _ => nofun, fun _ _ => nofun⟩
  intro k; unfold FieldOk; split <;> first | trivial | (rename_i e; cases e; first | assumption | decide)

theorem test_premises_CommandTakeIssuesRead :
    (∃ (s : State) (h : Attached), s.host.session = .attached h ∧ h.command = .idle ∧ h.commandRing.waiting ≠ 0 ∧
      (if h.archiveEngine = .idle then 0 else 1) < h.completionRing.size - 1 - h.completionRing.occupied) ∧
    (∀ h, State.reset.host.session ≠ .attached h) ∧
    ((0xFFFFFFFFFFFFF000 : BitVec 64).toNat + 63 * 64 < 2 ^ 64 ∧
      ({ base := 0x1000, size := 16, producer := 0, consumer := 15 } : CommandRing).waiting = 1 ∧
      ((ring 1 15).producer < (ring 1 15).size ∧ (ring 1 15).consumer < (ring 1 15).size ∧ (ring 1 15).occupied = 2)) :=
  ⟨⟨attached { session with command := .idle, completionRing := { session.completionRing with producer := 14 } } fresh, _,
    rfl, rfl, by decide, by decide⟩, fun _ => nofun, by decide⟩

theorem test_premises_ValidationRefuses :
    ReadInFlight (attached session fresh) 0 session ∧ ((0x00 : Byte).toNat = 0 ∧ 12 < (0x0D : Byte).toNat) ∧
    ((Instr.setTime ⟨0, 7⟩ 0x8000000000000000).answeredRead = some 0 ∧ (Instr.getTime ⟨0, 0xFFFF⟩).answeredRead = some 0) ∧
    commandHeader (.setTime ⟨0, 7⟩ 0x8000000000000000) = some (0x04, 7) ∧ ¬ FieldOk (.setTime ⟨0, 7⟩ 0x8000000000000000) 2 ∧
    (∀ j, j < 2 → FieldOk (.setTime ⟨0, 7⟩ 0x8000000000000000) j) ∧
    (¬ FieldOk (.getTime ⟨0, 0xFFFF⟩) 1 ∧ ∀ j, j < 1 → FieldOk (.getTime ⟨0, 0xFFFF⟩) j) := by
  refine ⟨readInFlight_session _ _ rfl (by decide), by decide, ⟨rfl, rfl⟩, rfl, ?_, ?_, ?_, ?_⟩
  · show ¬ (0x8000000000000000#64 < 0x8000000000000000); decide
  · intro j hj
    interval_cases j
    · trivial
    · show 7#16 ≠ 0xFFFF; decide
  · show ¬ (0xFFFF#16 ≠ 0xFFFF); decide
  · intro j hj
    interval_cases j
    trivial

theorem test_premises_ConfigureGroupReplacesEntry :
    ReadInFlight (attached session fresh) 0 session ∧ Accepted (.configureGroup ⟨0, 7⟩ 7 3 0 1) ∧ Accepted (.configureGroup ⟨0, 7⟩ 0 0 3 0) ∧
    ((7 : Byte).toNat = (7 : GroupNo).val ∧ (3 : Byte).toNat = (3 : ClassNo).val ∧ (3 : Byte).toNat = (3 : RingNo).val) ∧
    (session.eventRings.get 0 ≠ none ∧ session.eventRings.get 3 = none) ∧ ∃ t, exec .attach State.reset = .next t := by
  refine ⟨readInFlight_session _ _ rfl (by decide), ?_, ?_, by decide, by decide, _, rfl⟩ <;>
    intro k <;> unfold FieldOk <;> split <;> first | trivial | (rename_i e; cases e; first | assumption | decide)

theorem test_premises_SnapshotLevelsBuffer :
    ReadInFlight (attached session fresh) 0 session ∧ Accepted (.snapshotLevels ⟨0, 7⟩ 0xFFFFFFFFFFFFFFF8) := by
  refine ⟨readInFlight_session _ _ rfl (by decide), ?_⟩
  intro k; unfold FieldOk; split <;> first | trivial | (rename_i e; cases e; first | assumption | decide)

theorem test_premises_SnapshotCountersRecords :
    ReadInFlight (attached session (withLine 5 (countLine 9 1000) 1500).capture) 0 session ∧ Accepted (.snapshotCounters ⟨0, 7⟩ 0xFF 1) ∧
    (List.finRange 48).filter (fun i => decide (((withLine 5 (countLine 9 1000) 1500).capture.line i).config.role = .count ∧
      (0xFF : Byte).getLsbD ((withLine 5 (countLine 9 1000) 1500).capture.line i).config.group.val = true ∧
      ((withLine 5 (countLine 9 1000) 1500).capture.groups.get
        ((withLine 5 (countLine 9 1000) 1500).capture.line i).config.group).enabled = true)) = [5] ∧
    ((List.replicate 503 (entry 3 0 0 9)).length + 1 ≤ 512 ∧ lineRecords (List.replicate 503 (entry 3 0 0 9)) + 1 ≤ 504) := by
  refine ⟨readInFlight_session _ _ rfl (by decide), ?_, by decide +kernel, ?_, by decide +kernel⟩
  rotate_left
  · rw [List.length_replicate]; decide
  intro k; unfold FieldOk; split <;> first | trivial | (rename_i e; cases e; first | assumption | decide)

theorem test_premises_ReadStatisticsBuffer :
    ReadInFlight (attached session fresh) 0 session ∧ Accepted (.readStatistics ⟨0, 7⟩ 0 1) ∧ Accepted (.readStatistics ⟨0, 7⟩ 8 0) := by
  refine ⟨readInFlight_session _ _ rfl (by decide), ?_, ?_⟩ <;>
    intro k <;> unfold FieldOk <;> split <;> first | trivial | (rename_i e; cases e; first | assumption | decide)

theorem test_premises_SetNotifyReplacesThresholdAndDelay :
    ReadInFlight (attached session fresh) 0 session ∧ Accepted (.setNotify ⟨0, 7⟩ 5 255 0xFFFF) ∧ Accepted (.setNotify ⟨0, 7⟩ 4 1 0) ∧
    ((5 : Byte).toNat = (5 : VectorNo).val ∧ (4 : VectorNo).val = (3 : RingNo).val + 1 ∧ session.eventRings.get 3 = none) := by
  refine ⟨readInFlight_session _ _ rfl (by decide), ?_, ?_, by decide⟩ <;>
    intro k <;> unfold FieldOk <;> split <;> first | trivial | (rename_i e; cases e; first | assumption | decide)

/-- A session that executes a SNAPSHOT_LEVELS, with one due write. -/
def issuing (x : WriteSource) : Attached := { session with command := .executing 0x06 7, due := [dueWrite x] }

theorem test_premises_WritesAndMessagesGoOut :
    (∃ s : State, s.host.session = .attached (issuing (.record 3)) ∧ s.capture.elapsed ≤ (dueWrite (.record 3)).dueAt + 50000 ∧
      (dueWrite (.record 3)).source = .record 3 ∧ (4 : VectorNo).val = (3 : RingNo).val + 1) ∧
    (∃ s : State, s.host.session = .attached (issuing .buffer) ∧ s.capture.elapsed ≤ (dueWrite .buffer).dueAt + 50000 ∧
      (issuing .buffer).command = .executing 0x06 7) ∧
    (∃ s : State, s.host.session = .attached (issuing (.message 5)) ∧ s.capture.elapsed ≤ (dueWrite (.message 5)).dueAt + 50000) ∧
    (∃ s : State, s.host.session = .faulted (some (dueWrite (.message 5))) ∧
      s.capture.elapsed ≤ (dueWrite (.message 5)).dueAt + 50000) ∧
    (∃ (s : State) (h : Attached), s.host.session = .attached h ∧ (h.vectors.get 1).timer = some 100 ∧
      100 ≤ s.capture.elapsed) :=
  ⟨⟨attached (issuing (.record 3)) { fresh with elapsed := 50000 }, rfl, by decide, rfl, rfl⟩,
   ⟨attached (issuing .buffer) fresh, rfl, by decide, rfl⟩, ⟨attached (issuing (.message 5)) fresh, rfl, by decide⟩,
   ⟨{ State.reset with host := { State.reset.host with session := .faulted (some (dueWrite (.message 5))) } }, rfl, by decide⟩,
   ⟨attached { session with vectors := session.vectors.set 1 { vector with timer := some 100 } } { fresh with elapsed := 100 }, _,
     rfl, rfl, by decide⟩⟩

theorem test_premises_IndexWrites :
    (∀ h, State.reset.host.session ≠ .attached h) ∧
    (∃ s : State, s.host.session = .attached session ∧ (15 < session.commandRing.size ∧ ¬ 16 < session.commandRing.size)) ∧
    (∃ ring : Option HostRing, (3 : VectorNo).val = (2 : RingNo).val + 1 ∧ ring = session.eventRings.get 2 ∧ ring = none) ∧
    ((0 : VectorNo).val = 0 ∧ session.completionRing.validHead 1 = true ∧ session.completionRing.validHead 2 = false) :=
  ⟨fun _ => nofun, ⟨attached session fresh, rfl, by decide⟩, ⟨_, rfl, rfl, by decide⟩, by decide⟩

theorem test_premises_RegisterWrites :
    (0x7 : BitVec 4) ≠ 0xF#4 ∧ [((5 : BitVec 32), 0xF#4), (9, 0x3#4)][1]? = some (9, 0x3#4) ∧
      State.reset.host.session = .detached := ⟨by decide, rfl, rfl⟩

theorem test_premises_RegisterReads :
    (∃ (s : State) (h : Attached), s.host.session = .attached h ∧ s.readRegister 0x020 = 2) ∧ (∀ h, State.reset.host.session ≠ .attached h) ∧
    (∀ offset ∈ [0x001, 0x00C, 0x02C, 0x03D, 0x040, (0xFFF : BitVec 12)],
      offset ∉ [0x000, 0x004, 0x010, 0x014, 0x020, 0x024, 0x030, 0x034, 0x038, (0x03C : BitVec 12)]) :=
  ⟨⟨attached session fresh, _, rfl, by decide⟩, fun _ => nofun, by decide⟩

theorem test_premises_AttachBeginsInDetached :
    State.reset.host.session = .detached ∧ (attached session fresh).host.session ≠ .detached := ⟨rfl, nofun⟩

/-- A valid initialisation block with one event ring. -/
def block : InitBlock :=
  { version := 1, commandBase := 0x1000, commandSize := 16, completionBase := 0x2000, completionSize := 4096
    eventRings := #v[{ base := 0x3000, size := 65536 }, { base := 1, size := 0 }, { base := 0, size := 0 }, { base := 0, size := 0 }]
    systemRing := 0, vectors := Vector.replicate 6 { address := 0x5001, data := 0x11, threshold := 1, delay := 0 } }

theorem block_valid : ∀ k, BlockFieldOk block k := by
  intro k
  refine ⟨fun _ => rfl, fun _ => by decide, fun _ => ⟨by decide, by decide, 4, rfl⟩, fun _ => by decide,
    fun _ => ⟨by decide, by decide, 12, rfl⟩, fun n _ h => ?_, fun n _ h => ?_, fun _ => ⟨0, rfl, by decide⟩, fun v _ => ?_⟩
  · fin_cases n <;> first | decide | exact absurd rfl h
  · fin_cases n <;> first | exact ⟨by decide, by decide, 16, rfl⟩ | exact absurd rfl h
  · fin_cases v <;> decide

theorem test_premises_BlockReadAttachesOrFaults :
    (∃ s : State, s.host.session = .attaching 0x4000 0 0 ∧ s.capture.elapsed ≤ 0 + 50000 ∧ ∀ k, BlockFieldOk block k) ∧
    (0 ≤ 37 ∧ ¬ BlockFieldOk { block with version := 2 } 0 ∧ ∀ j, j < 0 → BlockFieldOk { block with version := 2 } j) := by
  refine ⟨⟨{ State.reset with host := { State.reset.host with session := .attaching 0x4000 0 0 } }, rfl, by decide, block_valid⟩,
    by decide, fun h => ?_, fun j hj => by omega⟩
  exact absurd (h.1 rfl) (by decide)

theorem test_premises_BusErrorsFault :
    (∃ s : State, s.host.session = .attaching 0x4000 0 0 ∧ s.capture.elapsed = 50000) ∧
    (∃ s : State, s.host.session = .attached session ∧ session.command = .reading 0x1000 0 0 ∧ s.capture.elapsed = 50000) ∧
    (∃ s : State, s.host.session = .attached (issuing .buffer) ∧ (issuing .buffer).due = dueWrite .buffer :: [] ∧
      (dueWrite .buffer).dueAt + 50000 ≤ s.capture.elapsed) ∧
    (∃ s : State, s.host.session = .faulted (some (dueWrite (.message 5))) ∧
      (dueWrite (.message 5)).dueAt + 50000 ≤ s.capture.elapsed) :=
  ⟨⟨{ withTimebase Timebase.powerOn 50000 with host := { State.reset.host with session := .attaching 0x4000 0 0 } }, rfl, rfl⟩,
   ⟨attached session { fresh with elapsed := 50000 }, rfl, rfl, rfl⟩,
   ⟨attached (issuing .buffer) { fresh with elapsed := 50000 }, rfl, rfl, by decide⟩,
   ⟨{ withTimebase Timebase.powerOn 50000 with
      host := { State.reset.host with session := .faulted (some (dueWrite (.message 5))) } }, rfl, by decide⟩⟩

theorem test_premises_DecodeOfEncode :
    Instr.wf (.abort ⟨0, 0xFFFF⟩ 0xFFFF) = true ∧ (recordOfCommand (.abort ⟨0, 0xFFFF⟩ 0xFFFF)).isSome = true ∧
    (Instr.abort ⟨0, 0xFFFF⟩ 0xFFFF).answeredRead = some 0 ∧
    Instr.wf (.badKind 0x0D ⟨0, 0xFFFF⟩) = true ∧ (recordOfCommand (.badKind 0x0D ⟨0, 0xFFFF⟩)).isSome = true := by decide

theorem test_premises_LinesStaySound :
    ∃ s t : State, LinesSound s.capture ∧ HorizonSound s.capture ∧ s.pending = [.debounceExpiry 5] ∧ step s = .next t :=
  ⟨{ State.reset with capture := (withLine 5 (candidateLine 1000) 2000).capture.recomputeHorizon, pending := [.debounceExpiry 5] }, _,
    linesSound_withLine (candidateLine 1000) ⟨by decide, ⟨by decide, rfl, rfl⟩, trivial, fun _ => rfl⟩ 2000, rfl, rfl, rfl⟩

theorem test_premises_StagingStaysSound : ∃ s t : State, StagingSound s.capture ∧ step s = .next t :=
  ⟨{ State.reset with capture := holding (List.replicate 504 (entry 3 0 0 9)) 9, pending := [.commandTake] }, _,
    replicate_sound _ _ (by decide) (by decide +kernel) _, rfl⟩

theorem test_premises_StampsStaySound : ∃ s t : State, StampsSound s.capture ∧ step s = .next t :=
  ⟨{ State.reset with capture := twoEntries, pending := [.releaseStep 0] }, _, by decide +kernel, rfl⟩

theorem test_premises_TimebaseStaysSound : ∃ s t : State, TimebaseSound s.capture ∧ step s = .next t :=
  ⟨{ timeState 5 4 .locked 2500000 with pending := [.lossExpiry] }, _, by decide, rfl⟩

theorem test_premises_ArchiveStaysSound : ∃ s t : State, ArchiveSound s.capture ∧ step s = .next t :=
  ⟨{ State.reset with capture := fullArchive, pending := [.releaseStep 0] }, _,
    test_premises_ArchiveAppendKeepsEntries.1, rfl⟩

theorem test_premises_SessionStaysSound : ∃ (s t : State) (h : Attached), s.host.session = .attached h ∧ SessionSound s.host ∧ step s = .next t := by
  refine ⟨{ attached session fresh with pending := [.readBusError (.badCompletion 0)] }, _, _, rfl, ⟨?_, rfl, rfl, rfl⟩, rfl⟩
  refine ⟨by decide, by decide, fun n r h => ?_, by decide, by decide, by decide, trivial⟩
  fin_cases n <;> cases h
  decide

theorem test_premises_AbandonedReadsStayAbandoned :
    ∃ s t : State, ReadsSound s ∧ s.readInFlight = some 0 ∧ s.reads = 1 ∧ step s = .next t :=
  ⟨{ attached session fresh with reads := 1, pending := [.detach] }, _, fun _ h => by cases h; decide, rfl, rfl, rfl⟩

end Sys2Proof.Tests
end

section
/-! Proofs about input lines and qualification (Chapter 1): lines in OFF. -/

namespace Sys2Proof.Machine

/-- A sample equal to the one before it is no change (R2): recording it again gives the same line, so no premise that the raw
level differs is needed. -/
theorem Capture.rawChange_of_off {c : Capture} {i : LineNo} (raw : Level) (off : (c.line i).qualifier = .off) :
    c.rawChange i raw = c.setLine i { c.line i with raw := raw } := by
  by_cases same : (c.line i).raw = raw
  · simp only [Capture.rawChange, if_pos same]
    subst same
    exact (c.setLine_self i).symm
  · simp [Capture.rawChange, same, off]

/-- R16: a line that comes from OFF starts at its present raw level under the new invert, with quiet chatter and counter 0. -/
theorem Capture.configureLine_of_leavesOff {c : Capture} {i : LineNo} {cfg : LineConfig}
    (off : (c.line i).config.role = .off) (leaves : cfg.role ≠ .off) :
    c.configureLine cfg i = c.setLine i { c.line i with
      config := cfg, qualifier := .stable (cfg.logical (c.line i).raw), chatter := .quiet, counter := 0 } := by
  simp only [Capture.configureLine, if_pos off, Capture.configureFromOff, if_neg leaves]

/-- Settles O8: in OFF the qualifier only records the raw level, and leaving OFF reads that level. -/
theorem rawChangeInOff : Obligations.RawChangeInOff := by
  refine ⟨fun s i raw off => ?_, fun c i cfg off leaves => ?_⟩
  · have recorded := Capture.rawChange_of_off raw off
    simp only [exec, execRawChange, State.onCapture, recorded]
  · rw [Capture.configureLine_of_leavesOff off leaves]
    exact ⟨by rw [Capture.line_setLine_same, LineConfig.logical], Capture.setLine_staging c i _⟩

end Sys2Proof.Machine
end

section
/-! Proofs about chatter suppression (Chapter 2): the window timer. -/

namespace Sys2Proof.Machine

/-- Section 2.1: chatter detection needs the EVENT role and a limit other than 0. -/
theorem LineConfig.chatterInForce_iff (cfg : LineConfig) :
    cfg.chatterInForce = true ↔ cfg.role = .event ∧ cfg.chatterLimit ≠ 0 := by
  simp only [LineConfig.chatterInForce, Bool.and_eq_true, decide_eq_true_eq]

/-- R22: in QUIET a confirmed transition opens a window with count 1, and its report is the qualifier's. -/
theorem chatterMonitor_of_quiet (now : Nat) {l : Line} (inForce : l.config.chatterInForce = true) (quiet : l.chatter = .quiet) :
    chatterMonitor now l =
      ({ l with chatter := .counting 1 (now + l.config.chatterWindow * Config.perMilli) }, .reportEdge) := by
  simp only [chatterMonitor, if_pos inForce, quiet]

/-- A window has run out exactly when the line counts and the elapsed count has reached the window's expiry instant (R22). -/
theorem Capture.windowDue_iff {c : Capture} {i : LineNo} :
    c.windowDue i = true ↔ ∃ count window, (c.line i).chatter = .counting count window ∧ window ≤ c.elapsed := by
  unfold Capture.windowDue
  cases (c.line i).chatter with
  | quiet => simp
  | counting count window => simp
  | chattering quiet => simp

/-- R26: a window that has run out closes, and nothing but the chatter state of its line changes. -/
theorem Capture.windowExpiry_of_due {c : Capture} {i : LineNo} (due : c.windowDue i = true) :
    c.windowExpiry i = c.setLine i { c.line i with chatter := .quiet } := by
  simp only [Capture.windowExpiry, if_pos due]

/-- Settles O13: the window closes by R26, and QUIET with chatter detection in force opens the next one by R22. -/
theorem windowExpiryClosesWindow : Obligations.WindowExpiryClosesWindow := by
  intro s i count window counting arrived
  refine ⟨?closes, fun later event limited => ?opens⟩
  case closes =>
    have due : s.capture.windowDue i = true := Capture.windowDue_iff.mpr ⟨count, window, counting, arrived⟩
    simp only [exec, execWindowTimerExpiry, State.onCapture, Capture.windowExpiry_of_due due]
  case opens =>
    have inForce := (LineConfig.chatterInForce_iff (s.capture.line i).config).mpr ⟨event, limited⟩
    exact chatterMonitor_of_quiet later (l := { s.capture.line i with chatter := .quiet }) inForce rfl

end Sys2Proof.Machine
end

section
/-! Proofs about the timebase (Chapter 3): SET_TIME, its refusals and its completion. -/

namespace Sys2Proof.Machine

/-! ### The result bytes of a completion -/

/-- What is placed at offset 0 fills the first bytes, and the bytes above its width read 0. -/
theorem bytesOf_placeAt_front {n w : Nat} (k m : Nat) (x : BitVec w) (width : w ≤ 8 * k) (room : 8 * (k + m) ≤ n) :
    bytesOf (k + m) (placeAt n 0 x) = bytesOf k x ++ zeros m := by
  have front : ∀ i ∈ List.range k, fieldAt (placeAt n 0 x) i 8 = fieldAt x i 8 := fun i hi => by
    have below := List.mem_range.mp hi
    exact fieldAt_placeAt_byte x (Nat.zero_le i) (by omega)
  have above : ∀ i ∈ List.range m, fieldAt (placeAt n 0 x) (k + i) 8 = 0 := fun i _ =>
    fieldAt_placeAt_above x (by omega)
  calc bytesOf (k + m) (placeAt n 0 x)
      = (List.range k).map (fun i => fieldAt (placeAt n 0 x) i 8) ++
          (List.range m).map (fun i => fieldAt (placeAt n 0 x) (k + i) 8) := by
        rw [bytesOf, List.range_add, List.map_append, List.map_map]
        rfl
    _ = bytesOf k x ++ zeros m := by
        rw [List.map_congr_left front, List.map_congr_left above, List.map_const', List.length_range]
        rfl

/-- R138: the new generation stands in the first four result bytes. -/
theorem bytesOf_generationResult (g : BitVec 32) : bytesOf 24 (generationResult g) = bytesOf 4 g ++ zeros 20 :=
  bytesOf_placeAt_front 4 20 g (by decide) (by decide)

/-! ### The capture side -/

@[simp] theorem Capture.setTime_timebase (c : Capture) (value : Nat) (systemRing : RingNo) :
    (c.setTime value systemRing).timebase = c.timebase.set value := Capture.stage_timebase _ _

/-- R53: SET_TIME starts the next generation. -/
theorem Capture.setTime_generation (c : Capture) (value : Nat) (systemRing : RingNo) :
    (c.setTime value systemRing).timebase.generation = c.timebase.generation + 1 :=
  congrArg Timebase.generation (c.setTime_timebase value systemRing)

@[simp] theorem Capture.setTime_elapsed (c : Capture) (value : Nat) (systemRing : RingNo) :
    (c.setTime value systemRing).elapsed = c.elapsed := Capture.stage_elapsed _ _

/-! ### The command -/

/-- The ranges of the statements are the ones validation tests (R138). -/
theorem timeFailure_of_accepted {read : Nat} {tag : BitVec 16} {value : BitVec 64}
    (accepted : Accepted (.setTime ⟨read, tag⟩ value)) : timeFailure tag value = none := by
  have tagOk : tag ≠ 0xFFFF := accepted 1
  have valueOk : value < 0x8000000000000000 := accepted 2
  refine firstFailure_none_of fun test member => ?_
  rcases List.mem_pair.mp member with rfl | rfl
  · exact decide_eq_true tagOk
  · exact decide_eq_true valueOk

section
variable {s : State} {h : Attached} {read : Nat} {tag : BitVec 16} {value : BitVec 64}

/-- A SET_TIME that passes validation is carried out with its read done. -/
theorem exec_setTime (r : ReadInFlight s read h) (accepted : Accepted (.setTime ⟨read, tag⟩ value)) :
    exec (.setTime ⟨read, tag⟩ value) s = .next ((s.withHost h.readDone).setTime tag value.toNat) :=
  congrArg Host.Outcome.next <| by
    rw [timeFailure_of_accepted accepted]
    exact State.runCommand_accepted r 0x04 tag _

/-- R52: no generation follows FFFF_FFFFh. -/
theorem State.setTime_of_exhausted (value : Nat) (exhausted : s.capture.timebase.generation = 0xFFFFFFFF#32) :
    (s.withHost h.readDone).setTime tag value =
      s.withHost (h.answered s.capture.elapsed 0x04 tag 0x06 0 (zeros 24)) := by
  calc (s.withHost h.readDone).setTime tag value
      = (s.withHost h.readDone).complete 0x04 tag .generationExhausted 0 := if_pos exhausted
    _ = _ := by rw [State.complete_readDone, bytesOf_zero]; rfl

/-- R52: the TIME_STEP record would find no free entry. -/
theorem State.setTime_of_full (value : Nat) (next : s.capture.timebase.generation ≠ 0xFFFFFFFF#32)
    (full : Config.stagingEntries ≤ s.capture.staging.length) :
    (s.withHost h.readDone).setTime tag value =
      s.withHost (h.answered s.capture.elapsed 0x04 tag 0x05 0 (zeros 24)) := by
  calc (s.withHost h.readDone).setTime tag value
      = (s.withHost h.readDone).complete 0x04 tag .stagingFull 0 := (if_neg next).trans (if_pos full)
    _ = _ := by rw [State.complete_readDone, bytesOf_zero]; rfl

/-- R53, R138: carried out, a SET_TIME acts on the capture side and completes with the new generation. -/
theorem State.setTime_of_room (value : Nat) (next : s.capture.timebase.generation ≠ 0xFFFFFFFF#32)
    (room : s.capture.staging.length < Config.stagingEntries) :
    (s.withHost h.readDone).setTime tag value =
      (s.onCapture (Capture.setTime value h.systemRing)).withHost
        (h.answered s.capture.elapsed 0x04 tag 0x00 0
          (bytesOf 4 (s.capture.timebase.generation + 1) ++ zeros 20)) := by
  calc (s.withHost h.readDone).setTime tag value
      = ((s.onCapture (Capture.setTime value h.systemRing)).withHost h.readDone).complete 0x04 tag .success
          (generationResult (s.capture.setTime value h.systemRing).timebase.generation) :=
        (if_neg next).trans (if_neg (Nat.not_le.mpr room))
    _ = _ := by
        rw [State.complete_readDone, Capture.setTime_generation, bytesOf_generationResult, State.onCapture_capture,
          Capture.setTime_elapsed]
        rfl

end

/-- Settles O21: the generation is tested before the staging queue, and any free entry lets the command through (R52). -/
theorem setTimeRefused : Obligations.SetTimeRefused := by
  intro s h read tag value r accepted
  rw [exec_setTime r accepted]
  refine ⟨fun exhausted => ?_, fun next full => ?_, fun next room => ?_⟩
  · rw [State.setTime_of_exhausted value.toNat exhausted]
  · rw [State.setTime_of_full value.toNat next (Nat.le_of_eq full.symm)]
  · rw [State.setTime_of_room value.toNat next room]
    exact ⟨_, rfl, Capture.setTime_generation s.capture value.toNat h.systemRing, rfl⟩

end Sys2Proof.Machine
end

section
/-! Proofs about the host commands (Chapter 8): CONFIGURE_GROUP, and what else may touch the group table. -/

namespace Sys2Proof.Machine

/-! ### What validation has accepted -/

/-- The lower end 0 of a range excludes nothing. -/
theorem inRange_zero {high n : Nat} (h : n ≤ high) : inRange 0 high n = true := by
  simp [inRange, h]

/-- The ranges of the statements are the ones validation tests (section 8.3.2). -/
theorem groupFailure_of_accepted {read : Nat} {tag : BitVec 16} {group cls ring enabled : Byte}
    (accepted : Accepted (.configureGroup ⟨read, tag⟩ group cls ring enabled)) :
    groupFailure tag group cls ring enabled = none := by
  have tagOk : tag ≠ 0xFFFF := accepted 1
  have groupOk : group.toNat ≤ 7 := accepted 2
  have clsOk : cls.toNat ≤ 3 := accepted 3
  have ringOk : ring.toNat ≤ 3 := accepted 4
  have enabledOk : enabled.toNat ≤ 1 := accepted 5
  refine firstFailure_none_of fun test member => ?_
  simp only [List.mem_cons, List.not_mem_nil, or_false] at member
  obtain rfl | rfl | rfl | rfl | rfl := member
  · exact decide_eq_true tagOk
  · exact inRange_zero groupOk
  · exact inRange_zero clsOk
  · exact inRange_zero ringOk
  · exact decide_eq_true enabledOk

/-- A flag in range is set exactly when it holds 1 (R132). -/
theorem flag_getLsbD_zero {b : Byte} (range : b.toNat ≤ 1) : b.getLsbD 0 = decide (b = 1) := by
  obtain rfl | rfl : b = 0 ∨ b = 1 := by bv_omega
  · rfl
  · rfl

/-! ### The command -/

section
variable {s : State} {h : Attached} {read : Nat} {tag : BitVec 16} {group cls ring enabled : Byte}

/-- A CONFIGURE_GROUP that passes validation is carried out, with its read done, on the entry that its fields name. -/
theorem exec_configureGroup {g : GroupNo} {k : ClassNo} {n : RingNo} (r : ReadInFlight s read h)
    (accepted : Accepted (.configureGroup ⟨read, tag⟩ group cls ring enabled)) (hg : group.toNat = g.val)
    (hk : cls.toNat = k.val) (hn : ring.toNat = n.val) :
    exec (.configureGroup ⟨read, tag⟩ group cls ring enabled) s =
      .next ((s.withHost h.readDone).configureGroup tag g { cls := k, ring := n, enabled := decide (enabled = 1) }) := by
  have enabledOk : enabled.toNat ≤ 1 := accepted 5
  refine congrArg Host.Outcome.next ?_
  rw [groupFailure_of_accepted accepted, State.runCommand_accepted r, hg, hk, hn, flag_getLsbD_zero enabledOk]
  simp only [Fin.ofNat_val_eq_self]

/-- Whether a ring is present is read in the session's event rings, which a command read leaves as they are. -/
theorem State.ringPresent_readDone (s : State) (h : Attached) (n : RingNo) :
    (s.withHost h.readDone).ringPresent n = (h.eventRings.get n).isSome := rfl

/-- R136: an entry is not targeted at a ring that is absent from the session. -/
theorem State.configureGroup_of_absent (g : GroupNo) {x : Group} (absent : h.eventRings.get x.ring = none) :
    (s.withHost h.readDone).configureGroup tag g x =
      s.withHost (h.answered s.capture.elapsed 0x02 tag 0x04 0 (zeros 24)) := by
  rw [State.configureGroup, State.ringPresent_readDone, absent, if_neg (by simp), State.complete_readDone, bytesOf_zero]
  rfl

/-- R136: an entry targeted at a present ring replaces the old one, and the command completes with no result. -/
theorem State.configureGroup_of_present (g : GroupNo) {x : Group} (present : h.eventRings.get x.ring ≠ none) :
    (s.withHost h.readDone).configureGroup tag g x =
      (s.onCapture (Capture.configureGroup g x)).withHost (h.answered s.capture.elapsed 0x02 tag 0x00 0 (zeros 24)) := by
  calc (s.withHost h.readDone).configureGroup tag g x
      = ((s.onCapture (Capture.configureGroup g x)).withHost h.readDone).complete 0x02 tag .success 0 :=
        if_pos (Option.isSome_iff_ne_none.mpr present)
    _ = _ := by
        rw [State.complete_readDone, bytesOf_zero, State.onCapture_capture, Capture.configureGroup_elapsed]
        rfl

end

/-! ### What leaves the group table -/

/-- What acts on one line leaves the group table. -/
theorem ActsOnLine.groups_eq {i : LineNo} {c d : Capture} (acts : ActsOnLine i c d) : d.groups = c.groups := by
  rw [acts.1]

@[simp] theorem Capture.syncSample_groups (c : Capture) (level : Level) : (c.syncSample level).groups = c.groups := by
  unfold Capture.syncSample
  split <;> rfl

@[simp] theorem Capture.configureLines_groups (c : Capture) (mask : BitVec 64) (cfg : LineConfig) :
    (c.configureLines mask cfg).groups = c.groups :=
  List.foldlRecOn (motive := fun d => d.groups = c.groups) (maskedLines mask) (Capture.configureLine cfg) rfl
    fun d kept i _ => (ActsOnLine.configureLine i d cfg).groups_eq.trans kept

@[simp] theorem Capture.setTime_groups (c : Capture) (value : Nat) (systemRing : RingNo) :
    (c.setTime value systemRing).groups = c.groups := Capture.stage_groups _ _

/-- The COUNT record of a snapshot, with the counter cleared or not, leaves the group table. -/
theorem Snapshot.takeLine_groups (clear : Bool) (p : Snapshot) (i : LineNo) :
    (p.takeLine clear i).capture.groups = p.capture.groups := by
  simp only [Snapshot.takeLine, Capture.stage_groups]
  split <;> rfl

@[simp] theorem Capture.snapshotCounters_groups (c : Capture) (mask : Byte) (clear : Bool) :
    (c.snapshotCounters mask clear).capture.groups = c.groups :=
  List.foldlRecOn (motive := fun p : Snapshot => p.capture.groups = c.groups) _ (Snapshot.takeLine clear) rfl
    fun p kept i _ => (p.takeLine_groups clear i).trans kept

/-- A release writes a ring and the archive, and leaves the group table. -/
theorem State.releaseStep_groups (s : State) (n : RingNo) : (s.releaseStep n).capture.groups = s.capture.groups := by
  unfold State.releaseStep
  split
  · rfl
  · split
    · simp
    · rfl

theorem State.setTime_groups (tag : BitVec 16) (value : Nat) (s : State) :
    (s.setTime tag value).capture.groups = s.capture.groups := by
  unfold State.setTime
  split
  · split
    · simp
    · split <;> simp
  all_goals rfl

theorem State.readStatistics_groups (tag : BitVec 16) (address : BitVec 64) (clear : Bool) (s : State) :
    (s.readStatistics tag address clear).capture.groups = s.capture.groups := by
  rw [State.readStatistics, State.writeBuffer_capture]
  split <;> simp

/-- A bus error that may fault the session leaves the group table in either case. -/
theorem State.raiseFault_if_groups (s : State) (fails : Bool) (code : FaultCode) :
    (if fails then s.raiseFault code else s).capture.groups = s.capture.groups := by
  cases fails
  · rfl
  · exact congrArg Capture.groups (s.raiseFault_capture code)

/-- A host command whose body leaves the group table leaves it, whatever its validation says. -/
theorem State.runCommand_groups {s : State} {read : Nat} {kind : Byte} {tag : BitVec 16} {failure : Option Nat}
    {body : State → State} (kept : ∀ t, (body t).capture.groups = t.capture.groups) :
    (s.runCommand read kind tag failure body).capture.groups = s.capture.groups := by
  obtain ⟨discarded, -⟩ | ⟨_, _, -, -, refused⟩ | ⟨_, -, -, accepted⟩ := s.runCommand_cases read kind tag failure body
  · rw [discarded]
  · rw [refused, State.withHost_capture]
  · rw [accepted, kept, State.withHost_capture]

/-- No command but CONFIGURE_GROUP and a power-on reset changes the group table (R79, R81). -/
theorem exec_groups {c : Instr} {s t : State} (run : exec c s = .next t)
    (notGroup : ∀ read tag group cls ring enabled, c ≠ .configureGroup ⟨read, tag⟩ group cls ring enabled)
    (notPowerOn : ∀ levels sync, c ≠ .powerOnReset levels sync) : t.capture.groups = s.capture.groups := by
  cases c with
  | configureGroup head group cls ring enabled => exact absurd rfl (notGroup head.read head.tag group cls ring enabled)
  | powerOnReset levels sync => exact absurd rfl (notPowerOn levels sync)
  | rawChange i raw => cases run; exact (ActsOnLine.rawChange i _ raw).groups_eq
  | debounceExpiry i => cases run; exact (ActsOnLine.debounceExpiry i _).groups_eq
  | windowTimerExpiry i => cases run; exact (ActsOnLine.windowExpiry i _).groups_eq
  | quietTimerExpiry i => cases run; exact (ActsOnLine.quietExpiry i _).groups_eq
  | syncPulse level => cases run; exact Capture.syncSample_groups _ level
  | releaseStep n => cases run; exact s.releaseStep_groups n
  | holdExpiry | lossExpiry | holdoverExpiry | retentionDisturbance _ _ _ | entryEligible _ | detach | reset | linkReset _ =>
    cases run; rfl
  | configureLines head params =>
    cases run
    exact State.runCommand_groups fun t => by simp [State.configureLines]
  | configureTimebase head enable edge tolerance limit =>
    cases run
    exact State.runCommand_groups fun t => by simp [State.configureTimebase]
  | setTime head value => cases run; exact State.runCommand_groups (State.setTime_groups head.tag value.toNat)
  | snapshotCounters head mask clear =>
    cases run
    exact State.runCommand_groups fun t => by simp [State.snapshotCounters]
  | readStatistics head address clear => cases run; exact State.runCommand_groups (State.readStatistics_groups _ _ _)
  | badKind kind head =>
    cases run
    split
    · rfl
    · exact State.runCommand_groups fun t => by rw [State.complete_capture]
  | getTime _ => cases run; exact State.runCommand_groups fun t => by rw [State.complete_capture]
  | snapshotLevels _ _ => cases run; exact State.runCommand_groups fun t => by rw [State.writeBuffer_capture]
  | replay _ _ _ _ | verifyArchive _ _ _ | abort _ _ | setNotify _ _ _ _ =>
    cases run; exact State.runCommand_groups fun t => by rw [State.onHost_capture]
  | replayRead | replayGrant | verifyRead | coalescingTimerExpiry _ =>
    cases run; exact congrArg Capture.groups (State.onHost_capture _ _)
  | commandTake => cases run; rw [State.takeCommand_capture]
  | memoryWriteIssue => cases run; rw [State.issueWrite_capture]
  | cmdTail value => cases run; rw [State.writeCmdTail_capture]
  | cplHead value => cases run; rw [State.writeCplHead_capture]
  | evtHead n value => cases run; rw [State.writeEvtHead_capture]
  | registerWrite offset value enables => cases run; rw [State.writeRegister_capture]
  | attach => cases run; rw [State.attach_capture]
  | blockReadComplete answer => cases run; rw [State.blockRead_capture]
  | initBusError cause =>
    cases run
    split
    · exact s.raiseFault_if_groups _ _
    all_goals rfl
  | readBusError cause =>
    cases run
    split
    · split
      · exact s.raiseFault_if_groups _ _
      all_goals rfl
    all_goals rfl
  | writeBusError =>
    cases run
    split
    · split
      · exact s.raiseFault_if_groups _ _
      · rfl
    all_goals rfl
  | faultNotifyFailed =>
    cases run
    split
    · split <;> rfl
    all_goals rfl

/-- Settles O40: the target ring decides between refusal and replacement, and every other command leaves the table (R136). -/
theorem configureGroupReplacesEntry : Obligations.ConfigureGroupReplacesEntry := by
  refine ⟨fun s h read tag group cls ring enabled g k n r accepted hg hk hn => ?_, fun s t c run => exec_groups run⟩
  rw [exec_configureGroup r accepted hg hk hn]
  by_cases absent : h.eventRings.get n = none
  · rw [if_pos absent, State.configureGroup_of_absent g absent]
  · rw [if_neg absent, State.configureGroup_of_present g absent]
    rfl

end Sys2Proof.Machine
end

section
/-! Laws of what the capture side holds in time order: every change of it, sorted by what it may touch, and the moments that what is
stamped carries. -/

namespace Sys2Proof.Machine

-- One declaration at a time: the check of the whole text then stays within its memory.
set_option Elab.async false

/-! ### Moments -/

/-- The present moment: this instant with what the timebase holds at it (R41). -/
def Capture.now (c : Capture) : Moment := momentOf c.elapsed c.stamp

/-- The moments a command may leave held: those held before it, and the present one. -/
def Capture.Stampable (c : Capture) (m : Moment) : Prop := m ∈ c.moments ∨ m = c.now

theorem Capture.mem_moments {c : Capture} {m : Moment} :
    m ∈ c.moments ↔ (∃ e ∈ c.staging, momentOf e.capture e.stamp = m) ∨ ∃ i, (c.line i).qualifier.moment = some m := by
  simp [Capture.moments]

theorem Capture.moment_mem {c : Capture} {i : LineNo} {m : Moment} (h : (c.line i).qualifier.moment = some m) : m ∈ c.moments :=
  Capture.mem_moments.mpr (.inr ⟨i, h⟩)

/-! ### What replaces lines and hands over line records -/

/-- `d` is reached from `c` by replacing lines and handing over line records, all that is stamped anew being stamped with a moment
that `c` holds or with the present one. -/
inductive Reworks (c : Capture) : Capture → Prop
  | refl : Reworks c c
  | setLine {d : Capture} (i : LineNo) (l : Line) (before : Reworks c d)
      (stamped : ∀ m, l.qualifier.moment = some m → c.Stampable m) : Reworks c (d.setLine i l)
  | stage {d : Capture} (e : Entry) (before : Reworks c d) (classed : e.cls ≠ none)
      (stamped : c.Stampable (momentOf e.capture e.stamp)) : Reworks c (d.stage e).1

theorem Reworks.frame {c d : Capture} (h : Reworks c d) :
    d = { c with lines := d.lines, staging := d.staging, highWater := d.highWater, tallies := d.tallies } := by
  induction h with
  | refl => rfl
  | setLine i l _ _ ih => rw [Capture.setLine, ih]
  | @stage d e _ _ _ ih => rw [d.stage_frame e, ih]

theorem Reworks.elapsed_eq {c d : Capture} (h : Reworks c d) : d.elapsed = c.elapsed := by rw [h.frame]
theorem Reworks.timebase_eq {c d : Capture} (h : Reworks c d) : d.timebase = c.timebase := by rw [h.frame]
theorem Reworks.stamp_eq {c d : Capture} (h : Reworks c d) : d.stamp = c.stamp := by rw [h.frame]; rfl
theorem Reworks.now_eq {c d : Capture} (h : Reworks c d) : d.now = c.now := by rw [h.frame]; rfl

/-- A record handed over leaves the qualifier states as they are. -/
theorem Capture.stage_qualifier (c : Capture) (e : Entry) (i : LineNo) : ((c.stage e).1.line i).qualifier = (c.line i).qualifier :=
  by rw [c.stage_line e i]

/-- What is stamped after a rework was stamped before it, or is stamped now. -/
theorem Reworks.stampable {c d : Capture} (h : Reworks c d) : ∀ m ∈ d.moments, c.Stampable m := by
  induction h with
  | refl => exact fun m hm => .inl hm
  | @setLine d i l _ stamped ih =>
    intro m hm
    obtain ⟨e, he, hm⟩ | ⟨j, hm⟩ := Capture.mem_moments.mp hm
    · exact ih m (Capture.mem_moments.mpr (.inl ⟨e, he, hm⟩))
    · rw [Capture.line_setLine] at hm
      split at hm
      · exact stamped m hm
      · exact ih m (Capture.moment_mem hm)
  | @stage d e _ _ stamped ih =>
    intro m held
    obtain ⟨x, hx, hm⟩ | ⟨j, hm⟩ := Capture.mem_moments.mp held
    · obtain rfl | hx := Capture.mem_stage hx
      · exact hm ▸ stamped
      · exact ih m (Capture.mem_moments.mpr (.inl ⟨x, hx, hm⟩))
    · rw [Capture.stage_qualifier] at hm
      exact ih m (Capture.moment_mem hm)

theorem Reworks.stampable_of {c d : Capture} (h : Reworks c d) {m : Moment} (hm : d.Stampable m) : c.Stampable m :=
  hm.elim (h.stampable m) fun e => .inr (e.trans h.now_eq)

theorem Reworks.trans {c d e : Capture} (h : Reworks c d) (k : Reworks d e) : Reworks c e := by
  induction k with
  | refl => exact h
  | setLine i l _ stamped ih => exact .setLine i l ih fun m hm => h.stampable_of (stamped m hm)
  | stage x _ classed stamped ih => exact .stage x ih classed (h.stampable_of stamped)

/-- A rework keeps the staging queue sound (R59, R60, R62). -/
theorem Reworks.stagingSound {c d : Capture} (h : Reworks c d) (sound : StagingSound c) : StagingSound d := by
  induction h with
  | refl => exact sound
  | setLine i l _ _ ih => exact ih
  | stage e _ classed _ ih => exact Capture.stage_sound ih fun none => absurd none classed

/-! ### The reworks -/

section
variable {c d : Capture} (before : Reworks c d) (i : LineNo)
include before

/-- The present moment of a rework is that of the capture side it began from. -/
theorem Reworks.stampable_now : c.Stampable (momentOf d.elapsed d.stamp) := .inr before.now_eq

/-- A line replaced by one that has no candidate. -/
theorem Reworks.settle {l : Line} (settled : l.qualifier.moment = none) : Reworks c (d.setLine i l) :=
  before.setLine i l fun m hm => by rw [settled] at hm; cases hm

/-- A line replaced by one with the same qualifier state. -/
theorem Reworks.keepQualifier {l : Line} (kept : l.qualifier = (d.line i).qualifier) : Reworks c (d.setLine i l) :=
  before.setLine i l fun _ hm => before.stampable _ (Capture.moment_mem (i := i) (kept ▸ hm))

/-- A line replaced by one whose candidate starts now. -/
theorem Reworks.startCandidate {l : Line} {level target : Level}
    (started : l.qualifier = .candidate level target d.elapsed d.stamp) : Reworks c (d.setLine i l) :=
  before.setLine i l fun m hm => by
    rw [started] at hm
    exact Option.some.inj hm ▸ before.stampable_now

theorem Reworks.record (kind : RecordKind) (level : Level) {stamp : Stamp} {capture : Nat} (payload : BitVec 64)
    (stamped : c.Stampable (momentOf capture stamp)) : Reworks c (d.createLineRecord i kind level stamp capture payload) := by
  unfold Capture.createLineRecord
  split
  · exact before.stage _ (Option.some_ne_none _) stamped
  · exact before

theorem Reworks.chatterOff : Reworks c (d.createChatterOff i) :=
  before.record i .chatterOff _ 0 before.stampable_now

/-- A confirmed transition at the chatter monitor, on a line that has come to STABLE. -/
theorem Reworks.confirmEvent {target : Level} {capture : Nat} {stamp : Stamp} (settled : (d.line i).qualifier.moment = none)
    (stamped : c.Stampable (momentOf capture stamp)) : Reworks c (d.confirmEvent i target capture stamp) := by
  have monitored : ∀ l o, chatterMonitor d.elapsed (d.line i) = (l, o) → l.qualifier.moment = none := fun l o h => by
    have frame := chatterMonitor_frame d.elapsed (d.line i)
    rw [h] at frame
    simp only at frame
    rw [frame]
    exact settled
  unfold Capture.confirmEvent
  split
  · rename_i l h
    split
    · exact (before.settle i (monitored _ _ h)).record i .edge target 0 stamped
    · exact before.settle i (monitored _ _ h)
  · rename_i l count h
    exact (before.settle i (monitored _ _ h)).record i .chatterOn target _ stamped
  · rename_i l h
    exact before.settle i (monitored _ _ h)

theorem Reworks.confirmCount {target : Level} : Reworks c (d.confirmCount i target) := by
  simp only [Capture.confirmCount]
  split
  · split
    · refine Reworks.record ?_ i .countWrap target 0 before.stampable_now
      exact before.keepQualifier i rfl
    · exact before.keepQualifier i rfl
  · exact before

theorem Reworks.confirm {target : Level} {capture : Nat} {stamp : Stamp} (stamped : c.Stampable (momentOf capture stamp)) :
    Reworks c (d.confirm i target capture stamp) := by
  have settled : Reworks c (d.setLine i { d.line i with
      qualifier := .stable target, transitionCount := satInc (d.line i).transitionCount }) := before.settle i rfl
  simp only [Capture.confirm]
  cases (d.line i).config.role with
  | off => exact settled
  | event => exact settled.confirmEvent i (by rw [Capture.line_setLine_same]; rfl) stamped
  | count => exact settled.confirmCount i

theorem Reworks.qualify (target : Level) : Reworks c (d.qualify i target) := by
  simp only [Capture.qualify]
  split
  · exact before.confirm i before.stampable_now
  · exact before.startCandidate i rfl

theorem Reworks.rawChange (raw : Level) : Reworks c (d.rawChange i raw) := by
  simp only [Capture.rawChange]
  split
  · exact before
  · split
    · exact before.keepQualifier i rfl
    · refine Reworks.qualify ?_ i _
      exact before.keepQualifier i rfl
    · exact before.settle i rfl

theorem Reworks.debounceExpiry : Reworks c (d.debounceExpiry i) := by
  unfold Capture.debounceExpiry
  split
  · split
    · rename_i level target capture stamp held
      exact before.confirm i (before.stampable _ (Capture.moment_mem (i := i) (by rw [held]; rfl)))
    · exact before
    · exact before
  · exact before

theorem Reworks.windowExpiry : Reworks c (d.windowExpiry i) := by
  unfold Capture.windowExpiry
  split
  · exact before.keepQualifier i rfl
  · exact before

theorem Reworks.quietExpiry : Reworks c (d.quietExpiry i) := by
  unfold Capture.quietExpiry
  split
  · refine Reworks.chatterOff ?_ i
    exact before.keepQualifier i rfl
  · exact before

theorem Reworks.closeEpisode : Reworks c (d.closeEpisode i) := by
  unfold Capture.closeEpisode
  split
  · exact before.chatterOff i
  · exact before

theorem Reworks.configureLine (cfg : LineConfig) : Reworks c (d.configureLine cfg i) := by
  unfold Capture.configureLine
  split
  · unfold Capture.configureFromOff
    split
    · exact before.keepQualifier i rfl
    · exact before.settle i rfl
  · split
    · exact (before.closeEpisode i).settle i rfl
    · simp only [Capture.configureKept]
      split
      · exact (before.closeEpisode i).settle i rfl
      · exact ((before.closeEpisode i).settle i rfl).qualify i _

end

/-- The masked lines reconfigured one after another. -/
theorem Reworks.configureLineFold (c : Capture) (lines : List LineNo) (cfg : LineConfig) :
    Reworks c (lines.foldl (Capture.configureLine cfg) c) :=
  List.foldlRecOn (motive := Reworks c) lines (Capture.configureLine cfg) .refl fun _ before i _ => before.configureLine i cfg

theorem Reworks.takeLine {c : Capture} {p : Snapshot} (before : Reworks c p.capture) (clear : Bool) (i : LineNo) :
    Reworks c (p.takeLine clear i).capture := by
  have kept : Reworks c (if clear then p.capture.setLine i { p.capture.line i with counter := 0 } else p.capture) := by
    split
    · exact before.keepQualifier i rfl
    · exact before
  exact kept.stage _ (Option.some_ne_none _) before.stampable_now

theorem Reworks.snapshotCounters (c : Capture) (mask : Byte) (clear : Bool) : Reworks c (c.snapshotCounters mask clear).capture :=
  List.foldlRecOn (motive := fun p : Snapshot => Reworks c p.capture) _ (Snapshot.takeLine clear) .refl
    fun _ before i _ => before.takeLine clear i

/-! ### The changes of the timebase -/

/-- The ways in which one command but SET_TIME and a power-on reset can leave the timebase, at an elapsed count. -/
inductive TimebaseMove (now : Nat) (t : Timebase) : Timebase → Prop
  | kept : TimebaseMove now t t
  | pulse (enabled : t.syncEnable = true) (set : t.quality ≠ .unset) : TimebaseMove now t (t.pulse now)
  | endHold : TimebaseMove now t (t.endHold now)
  | lose : TimebaseMove now t (t.lose now)
  | endHoldover : TimebaseMove now t (t.endHoldover now)
  | configure (enable : Bool) (edge : Edge) (tolerance limit : Nat)
      (ranges : 1 ≤ tolerance ∧ tolerance ≤ 50000 ∧ 1 ≤ limit ∧ limit ≤ 86400) :
      TimebaseMove now t (t.configure enable edge tolerance limit now)

/-- The ways in which one command can leave the capture side, by what they may touch. -/
inductive CaptureChange (c : Capture) : Capture → Prop
  | lines {d : Capture} (horizon : Nat) (reworked : Reworks c d) : CaptureChange c { d with horizon := horizon }
  | timebase {t : Timebase} (level : Level) (moved : TimebaseMove c.elapsed c.timebase t) :
      CaptureChange c { c with syncLevel := level, timebase := t }
  | release (n : RingNo) (e : Entry) (claim : c.liveClaim n = some e) : CaptureChange c (c.release n e)
  | disturb (q : Nat) (record : Record32) (code : BitVec 16) :
      CaptureChange c { c with archive := c.archive.disturb q record code }
  | groups (g : GroupNo) (x : Group) : CaptureChange c (c.configureGroup g x)
  | setTime (value : Nat) (systemRing : RingNo) (next : c.timebase.generation ≠ 0xFFFFFFFF#32)
      (room : c.staging.length < 512) : CaptureChange c (c.setTime value systemRing)
  | clearStatistics : CaptureChange c c.clearStatistics
  | powerOn (levels : BitVec 48) (sync : Level) : CaptureChange c (Capture.powerOn levels sync)

theorem Capture.syncSample_change (c : Capture) (level : Level) : CaptureChange c (c.syncSample level) := by
  unfold Capture.syncSample
  split
  · exact .timebase c.syncLevel .kept
  · split
    · rename_i active
      exact .timebase level (.pulse active.2.1 active.2.2)
    · exact .timebase level .kept

/-- Every move of the capture side is one of the changes. -/
theorem CaptureMove.change {c d : Capture} (move : CaptureMove c d) : CaptureChange c d := by
  have ofLines : ∀ {e : Capture}, Reworks c e → CaptureChange c e := fun {e} h => .lines e.horizon h
  cases move with
  | kept => exact ofLines .refl
  | rawChange i raw => exact ofLines (.rawChange .refl i raw)
  | debounceExpiry i => exact ofLines (.debounceExpiry .refl i)
  | windowExpiry i => exact ofLines (.windowExpiry .refl i)
  | quietExpiry i => exact ofLines (.quietExpiry .refl i)
  | syncSample level => exact c.syncSample_change level
  | endHold => exact .timebase c.syncLevel .endHold
  | lose => exact .timebase c.syncLevel .lose
  | endHoldover => exact .timebase c.syncLevel .endHoldover
  | release n e claim => exact .release n e claim
  | disturb q record code => exact .disturb q record code
  | configureLines mask cfg _ => exact .lines _ (Reworks.configureLineFold c (maskedLines mask) cfg)
  | configureGroup g x => exact .groups g x
  | configureTimebase enable edge tolerance limit ranges => exact .timebase c.syncLevel (.configure enable edge tolerance limit ranges)
  | setTime value systemRing next room => exact .setTime value systemRing next room
  | snapshotCounters mask clear => exact ofLines (.snapshotCounters c mask clear)
  | clearStatistics => exact .clearStatistics
  | powerOn levels sync => exact .powerOn levels sync

end Sys2Proof.Machine
end

section
/-! Proofs about the staging queue (Chapter 4): what keeps it in key order and within its capacities. -/

namespace Sys2Proof.Machine

-- One declaration at a time: the check of the whole text then stays within its memory.
set_option Elab.async false

/-- SET_TIME changes the staging queue by its TIME_STEP record alone, for which R52 has found room. -/
theorem Capture.setTime_stagingSound {c : Capture} (value : Nat) (systemRing : RingNo) (room : c.staging.length < 512)
    (sound : StagingSound c) : StagingSound (c.setTime value systemRing) :=
  Capture.stage_sound (c := { c.onTimebase (Timebase.set value) with lines := _ }) sound fun _ => room

/-- A release takes entries out of the staging queue and puts none in. -/
theorem Capture.release_sublist (c : Capture) (n : RingNo) (e : Entry) : (c.release n e).staging.Sublist c.staging := by
  simp only [Capture.release]
  split
  · exact List.eraseP_sublist
  · exact List.Sublist.refl _

/-- A queue with entries taken out of it, under a mark no higher, stays sound. -/
theorem StagingSound.ofSublist {c d : Capture} (sound : StagingSound c) (taken : d.staging.Sublist c.staging)
    (mark : d.highWater ≤ c.highWater) : StagingSound d := by
  obtain ⟨sorted, entries, records, high⟩ := sound
  exact ⟨sorted.sublist taken, taken.length_le.trans entries, (taken.filter _).length_le.trans records, mark.trans high⟩

theorem CaptureChange.stagingSound {c d : Capture} (change : CaptureChange c d) (sound : StagingSound c) : StagingSound d := by
  cases change with
  | lines horizon reworked => exact reworked.stagingSound sound
  | timebase level moved => exact sound
  | release n e claim => exact sound.ofSublist (c.release_sublist n e) le_rfl
  | disturb q record code => exact sound
  | groups g x => exact sound
  | setTime value systemRing next room => exact Capture.setTime_stagingSound value systemRing room sound
  | clearStatistics => exact sound.ofSublist (by simp) (by simp)
  | powerOn levels sync => exact sound.ofSublist (List.nil_sublist _) (Nat.zero_le _)

/-- Settles O55: every change of the staging queue is an insertion with room, an eviction with its insertion, or a release. -/
theorem stagingStaysSound : Obligations.StagingStaysSound := by
  intro s t sound run
  obtain move | ⟨-, -, rfl⟩ := step_capture run
  · exact move.change.stagingSound sound
  · exact sound

end Sys2Proof.Machine
end

section
/-! Proofs about stamps (Chapters 3 and 4): time does not run back under what is stamped. -/

namespace Sys2Proof.Machine

-- One declaration at a time: the check of the whole text then stays within its memory.
set_option Elab.async false

/-! ### The order of moments -/

theorem Moment.stampLe_trans {a b c : Moment} (h : a.stampLe b) (k : b.stampLe c) : a.stampLe c := by
  simp only [Moment.stampLe] at *
  omega

theorem Capture.now_eq (c : Capture) : c.now =
    { capture := c.elapsed, generation := c.timebase.generation.toNat, timeValue := c.timebase.timeValue } := rfl

/-- The present moment is later than every moment held, so what is stampable is in order. -/
theorem StampsSound.stampable {c : Capture} (sound : StampsSound c) {a b : Moment} (ha : c.Stampable a) (hb : c.Stampable b)
    (earlier : a.capture < b.capture) : a.stampLe b := by
  obtain ⟨order, past⟩ := sound
  obtain ha | rfl := ha
  · obtain hb | rfl := hb
    · exact order a ha b hb earlier
    · exact (past a ha).2
  · obtain hb | rfl := hb
    · exact absurd (past b hb).1 (Nat.not_le.mpr earlier)
    · exact absurd earlier (lt_irrefl _)

/-- What is stampable is not after now. -/
theorem StampsSound.stampable_le {c : Capture} (sound : StampsSound c) {a : Moment} (ha : c.Stampable a) :
    a.capture ≤ c.elapsed ∧ a.stampLe c.now := by
  obtain ha | rfl := ha
  · exact sound.2 a ha
  · exact ⟨le_rfl, .inr ⟨rfl, le_rfl⟩⟩

/-- The order of stamps is kept where time goes on and what is held was stampable before, or is stamped with the new present
moment. -/
theorem StampsSound.advance {c d : Capture} (sound : StampsSound c) (elapsed : c.elapsed ≤ d.elapsed)
    (stamp : c.now.stampLe d.now) (held : ∀ m ∈ d.moments, c.Stampable m ∨ m = d.now) : StampsSound d := by
  have present : ∀ m, (c.Stampable m ∨ m = d.now) → m.capture ≤ d.elapsed ∧ m.stampLe d.now := fun m hm => by
    obtain hm | rfl := hm
    · obtain ⟨before, le⟩ := sound.stampable_le hm
      exact ⟨before.trans elapsed, Moment.stampLe_trans le stamp⟩
    · exact ⟨le_rfl, .inr ⟨rfl, le_rfl⟩⟩
  refine ⟨fun a ha b hb earlier => ?_, fun m hm => present m (held m hm)⟩
  obtain hb' | rfl := held b hb
  · obtain ha' | rfl := held a ha
    · exact sound.stampable ha' hb' earlier
    · exact absurd (((sound.stampable_le hb').1).trans elapsed) (Nat.not_le.mpr earlier)
  · exact (present a (held a ha)).2

/-! ### The time value over a change of the timebase -/

/-- The correction of an accepted pulse never steps back (R45): a fast time is held, not set back. -/
theorem Timebase.timeValue_le_pulse (now : Nat) (t : Timebase) : t.timeValue ≤ (t.pulse now).timeValue := by
  simp only [Timebase.pulse]
  split
  · simp only [Timebase.acceptPulse, Timebase.correct]
    split
    · exact le_rfl
    · split
      · exact Nat.le_add_right _ _
      · exact le_rfl
  · exact le_rfl

theorem Timebase.generation_pulse (now : Nat) (t : Timebase) : (t.pulse now).generation = t.generation := by
  simp only [Timebase.pulse]
  split
  · simp only [Timebase.acceptPulse, Timebase.correct]
    split
    · rfl
    · split <;> rfl
  · rfl

@[simp] theorem Timebase.endHoldover_generation (now : Nat) (t : Timebase) : (t.endHoldover now).generation = t.generation := by
  unfold Timebase.endHoldover
  split <;> rfl

@[simp] theorem Timebase.endHoldover_timeValue (now : Nat) (t : Timebase) : (t.endHoldover now).timeValue = t.timeValue := by
  unfold Timebase.endHoldover
  split <;> rfl

/-- No command but SET_TIME and a power-on reset moves the generation, and none sets the time value back (R40). -/
theorem TimebaseMove.counts {now : Nat} {t u : Timebase} (moved : TimebaseMove now t u) :
    u.generation = t.generation ∧ t.timeValue ≤ u.timeValue := by
  cases moved with
  | kept => exact ⟨rfl, le_rfl⟩
  | pulse _ _ => exact ⟨t.generation_pulse now, t.timeValue_le_pulse now⟩
  | endHold => unfold Timebase.endHold; split <;> exact ⟨rfl, le_rfl⟩
  | lose => unfold Timebase.lose; split <;> exact ⟨rfl, le_rfl⟩
  | endHoldover => simp
  | configure enable edge tolerance limit _ =>
    simp only [Timebase.configure]
    split
    · exact ⟨rfl, le_rfl⟩
    · split
      · simp
      · exact ⟨rfl, le_rfl⟩

theorem Timebase.tick_counts (t : Timebase) : t.tick.generation = t.generation ∧ t.timeValue ≤ t.tick.timeValue := by
  unfold Timebase.tick
  split
  · exact ⟨rfl, Nat.le_succ _⟩
  · exact ⟨rfl, le_rfl⟩

theorem Capture.now_stampLe {c d : Capture} (generation : d.timebase.generation = c.timebase.generation)
    (value : c.timebase.timeValue ≤ d.timebase.timeValue) : c.now.stampLe d.now :=
  .inr ⟨congrArg BitVec.toNat generation.symm, value⟩

/-! ### SET_TIME (R53 to R55) -/

/-- A generation that is not the last has a next one above it. -/
theorem toNat_nextGeneration {g : BitVec 32} (next : g ≠ 0xFFFFFFFF#32) : (g + 1#32).toNat = g.toNat + 1 := by
  bv_omega

theorem Line.restamp_moment {now : Nat} {stamp : Stamp} {l : Line} {m : Moment}
    (h : (l.restamp now stamp).qualifier.moment = some m) : m = momentOf now stamp := by
  unfold Line.restamp at h
  cases q : l.qualifier with
  | off => rw [q] at h; simp only [q] at h; cases h
  | stable level => rw [q] at h; simp only [q] at h; cases h
  | candidate level target capture old => rw [q] at h; exact (Option.some.inj h).symm

theorem Capture.setTime_now (c : Capture) (value : Nat) (systemRing : RingNo) :
    (c.setTime value systemRing).now = momentOf c.elapsed ((c.onTimebase (Timebase.set value)).stamp) := by
  rw [Capture.now_eq, Capture.setTime_elapsed, Capture.setTime_timebase]
  rfl

/-- R53, R54: the capture side in its new generation, every candidate re-stamped. -/
def Capture.restamped (value : Nat) (c : Capture) : Capture :=
  let d := c.onTimebase (Timebase.set value)
  { d with lines := Vector.ofFn fun i => (d.line i).restamp d.elapsed d.stamp }

@[simp] theorem Capture.restamped_staging (c : Capture) (value : Nat) : (c.restamped value).staging = c.staging := by
  simp only [Capture.restamped, Capture.onTimebase_staging]

@[simp] theorem Capture.restamped_elapsed (c : Capture) (value : Nat) : (c.restamped value).elapsed = c.elapsed := by
  simp only [Capture.restamped, Capture.onTimebase_elapsed]

@[simp] theorem Capture.restamped_stamp (c : Capture) (value : Nat) :
    (c.restamped value).stamp = (c.onTimebase (Timebase.set value)).stamp := by
  simp only [Capture.restamped, Capture.stamp]

theorem Capture.line_restamped (c : Capture) (value : Nat) (i : LineNo) :
    (c.restamped value).line i = (c.line i).restamp c.elapsed (c.onTimebase (Timebase.set value)).stamp := by
  simp [Capture.restamped, Capture.line, Vector.get_eq_getElem]

/-- R53: SET_TIME hands its TIME_STEP over in the new generation. -/
theorem Capture.setTime_eq (c : Capture) (value : Nat) (systemRing : RingNo) : c.setTime value systemRing =
    ((c.restamped value).stage
      (timeStepEntry (c.restamped value).stamp (c.restamped value).elapsed c.timebase.timeValue systemRing)).1 := rfl

/-- R54, R55: the TIME_STEP and every candidate carry the new present moment. -/
theorem Capture.setTime_moments (c : Capture) (value : Nat) (systemRing : RingNo) :
    ∀ m ∈ (c.setTime value systemRing).moments, c.Stampable m ∨ m = (c.setTime value systemRing).now := by
  intro m held
  rw [Capture.setTime_now]
  obtain ⟨x, hx, hm⟩ | ⟨i, hm⟩ := Capture.mem_moments.mp held
  · rw [Capture.setTime_eq] at hx
    obtain rfl | hx := Capture.mem_stage hx
    · exact .inr (by rw [← hm, Capture.restamped_stamp, Capture.restamped_elapsed]; rfl)
    · rw [Capture.restamped_staging] at hx
      exact .inl (.inl (Capture.mem_moments.mpr (.inl ⟨x, hx, hm⟩)))
  · rw [Capture.setTime_eq, Capture.stage_qualifier, Capture.line_restamped] at hm
    exact .inr (Line.restamp_moment hm)

theorem Capture.setTime_stampsSound {c : Capture} (value : Nat) (systemRing : RingNo)
    (next : c.timebase.generation ≠ 0xFFFFFFFF#32) (sound : StampsSound c) : StampsSound (c.setTime value systemRing) := by
  refine sound.advance (c.setTime_elapsed value systemRing).ge ?_ (c.setTime_moments value systemRing)
  have later := toNat_nextGeneration next
  rw [Capture.setTime_now]
  left
  show c.timebase.generation.toNat < (c.timebase.generation + 1#32).toNat
  omega

/-! ### Every step -/

/-- A change that takes no time, and stamps nothing that was not stampable, keeps the order. -/
theorem StampsSound.ofHeld {c d : Capture} (sound : StampsSound c) (now : d.now = c.now) (held : ∀ m ∈ d.moments, c.Stampable m) :
    StampsSound d := by
  refine sound.advance ?_ ?_ fun m hm => .inl (held m hm)
  · exact (congrArg Moment.capture now).ge
  · rw [now]
    exact .inr ⟨rfl, le_rfl⟩

theorem Capture.clearStatistics_moments (c : Capture) : ∀ m ∈ c.clearStatistics.moments, m ∈ c.moments := by
  intro m held
  simpa only [Capture.mem_moments, Capture.line_clearStatistics, Capture.clearStatistics_staging] using held

theorem Capture.release_moments (c : Capture) (n : RingNo) (e : Entry) : ∀ m ∈ (c.release n e).moments, m ∈ c.moments := by
  intro m held
  obtain ⟨x, hx, hm⟩ | ⟨i, hm⟩ := Capture.mem_moments.mp held
  · exact Capture.mem_moments.mpr (.inl ⟨x, (c.release_sublist n e).subset hx, hm⟩)
  · exact Capture.moment_mem (i := i) hm

theorem Capture.powerOn_line (levels : BitVec 48) (sync : Level) (i : LineNo) :
    (Capture.powerOn levels sync).line i = Line.powerOn (levels.getLsbD i.val) := by
  simp [Capture.powerOn, Capture.line, Vector.get_eq_getElem]

theorem Capture.powerOn_moments (levels : BitVec 48) (sync : Level) : ∀ m, m ∉ (Capture.powerOn levels sync).moments := by
  intro m held
  obtain ⟨x, hx, -⟩ | ⟨i, hm⟩ := Capture.mem_moments.mp held
  · cases hx
  · rw [Capture.powerOn_line] at hm
    cases hm

theorem Capture.powerOn_stampsSound (levels : BitVec 48) (sync : Level) : StampsSound (Capture.powerOn levels sync) :=
  ⟨fun a ha => absurd ha (Capture.powerOn_moments levels sync a), fun a ha => absurd ha (Capture.powerOn_moments levels sync a)⟩

theorem CaptureChange.stampsSound {c d : Capture} (change : CaptureChange c d) (sound : StampsSound c) : StampsSound d := by
  cases change with
  | lines horizon reworked => exact sound.ofHeld reworked.now_eq reworked.stampable
  | timebase level moved =>
    obtain ⟨generation, value⟩ := moved.counts
    exact sound.advance le_rfl (Capture.now_stampLe generation value) fun m hm => .inl (.inl hm)
  | release n e claim => exact sound.ofHeld rfl fun m hm => .inl (c.release_moments n e m hm)
  | disturb q record code => exact sound
  | groups g x => exact sound
  | setTime value systemRing next room => exact Capture.setTime_stampsSound value systemRing next sound
  | clearStatistics => exact sound.ofHeld (by simp [Capture.now_eq]) fun m hm => .inl (c.clearStatistics_moments m hm)
  | powerOn levels sync => exact Capture.powerOn_stampsSound levels sync

/-- Settles O56: what is stamped anew carries the present moment, and the present moment never runs back (R40). -/
theorem stampsStaySound : Obligations.StampsStaySound := by
  intro s t sound run
  obtain move | ⟨-, -, rfl⟩ := step_capture run
  · exact move.change.stampsSound sound
  · obtain ⟨generation, value⟩ := s.capture.timebase.tick_counts
    exact sound.advance (Nat.le_succ _) (Capture.now_stampLe generation value) fun m hm => .inl (.inl hm)

end Sys2Proof.Machine
end

section
/-! Proofs about the timebase (Chapter 3): its quality, runs and timers stay in agreement. -/

namespace Sys2Proof.Machine

-- One declaration at a time: the check of the whole text then stays within its memory.
set_option Elab.async false

/-- A correction moves the time value and the hold alone (R45). -/
theorem Timebase.correct_frame (now : Nat) (t : Timebase) :
    t.correct now = { t with timeValue := (t.correct now).timeValue, holdExpiry := (t.correct now).holdExpiry } := by
  unfold Timebase.correct
  split
  · rfl
  · split <;> rfl

/-- The hold of an accepted pulse is no longer than the tolerance (R45, R46). -/
theorem Timebase.correct_hold {now : Nat} {t : Timebase} (none : t.holdExpiry = none) (accepted : t.accepts = true) :
    ∀ x, (t.correct now).holdExpiry = some x → x - now ≤ t.tolerance := by
  have within : t.offset ≤ t.tolerance := of_decide_eq_true accepted
  intro x hx
  unfold Timebase.correct at hx
  split at hx
  · rw [none] at hx; cases hx
  · split at hx
    · rw [none] at hx; cases hx
    · cases hx; omega

/-- What remains of a hold, from its expiry instant. -/
theorem Capture.holdRemaining_le {c : Capture} {n : Nat} :
    c.holdRemaining ≤ n ↔ ∀ x, c.timebase.holdExpiry = some x → x - c.elapsed ≤ n := by
  unfold Capture.holdRemaining
  cases c.timebase.holdExpiry with
  | none => simp
  | some x => simp

theorem Quality.afterAccepted_ne_holdover (q : Quality) (run : BitVec 32) : q.afterAccepted run ≠ .holdover := by
  cases q with
  | free => simp only [Quality.afterAccepted]; split <;> decide
  | unset | locked | holdover => exact Quality.noConfusion

theorem Quality.afterAccepted_eq_unset (q : Quality) (run : BitVec 32) : q.afterAccepted run = .unset ↔ q = .unset := by
  cases q with
  | free => simp only [Quality.afterAccepted]; split <;> decide
  | unset => exact ⟨fun _ => rfl, fun _ => rfl⟩
  | locked | holdover => exact ⟨Quality.noConfusion, Quality.noConfusion⟩

/-- R45: an accepted pulse. -/
theorem TimebaseSound.acceptPulse {c : Capture} (sound : TimebaseSound c) (enabled : c.timebase.syncEnable = true)
    (set : c.timebase.quality ≠ .unset) (unheld : c.timebase.holdExpiry = none) (accepted : c.timebase.accepts = true) :
    TimebaseSound { c with timebase := c.timebase.acceptPulse c.elapsed } := by
  obtain ⟨unset, -, locked, holdover, runs, tolerance, limit, -⟩ := sound
  have hold := Timebase.correct_hold (now := c.elapsed) unheld accepted
  have quality := Quality.afterAccepted_eq_unset c.timebase.quality (satInc c.timebase.acceptedRun)
  have notHoldover := Quality.afterAccepted_ne_holdover c.timebase.quality (satInc c.timebase.acceptedRun)
  simp only [Timebase.acceptPulse]
  rw [Timebase.correct_frame]
  refine ⟨quality.trans unset, fun h => absurd (quality.mp h) set, fun _ => ⟨rfl, enabled⟩, ?_, fun off => ?_, tolerance, limit, ?_⟩
  · refine ⟨fun h => absurd h notHoldover, fun entered => ?_⟩
    simp only at entered
    split at entered
    · cases entered
    · rename_i other
      exact absurd (holdover.mpr entered) other
  · exact absurd (enabled.symm.trans off) (by decide)
  · exact Capture.holdRemaining_le.mpr fun x hx => (hold x hx).trans tolerance.2

/-- R47: a rejected pulse. -/
theorem TimebaseSound.rejectPulse {c : Capture} (sound : TimebaseSound c) (enabled : c.timebase.syncEnable = true)
    (set : c.timebase.quality ≠ .unset) :
    TimebaseSound { c with timebase := c.timebase.rejectPulse c.elapsed } := by
  obtain ⟨unset, -, locked, holdover, runs, tolerance, limit, hold⟩ := sound
  simp only [Timebase.rejectPulse]
  generalize (decide (c.timebase.quality = .locked) && decide (Config.unlockRun ≤ (satInc c.timebase.rejectedRun).toNat)) = lost
  cases lost with
  | false =>
    exact ⟨unset, fun h => absurd h set, locked, holdover, fun off => absurd (enabled.symm.trans off) (by decide), tolerance, limit, hold⟩
  | true =>
    refine ⟨⟨fun h => (nomatch h), fun h => absurd (unset.mpr h) set⟩, fun h => (nomatch h), fun h => (nomatch h), ?_, fun off => ?_,
      tolerance, limit, hold⟩
    · exact ⟨fun _ => rfl, fun _ => rfl⟩
    · exact absurd (enabled.symm.trans off) (by decide)

/-- The end of a hold touches nothing but what remains of it. -/
theorem TimebaseSound.endHold {c : Capture} (sound : TimebaseSound c) :
    TimebaseSound { c with timebase := { c.timebase with holdExpiry := none } } := by
  obtain ⟨unset, start, locked, holdover, runs, tolerance, limit, -⟩ := sound
  exact ⟨unset, fun h => ⟨(start h).1, rfl⟩, locked, holdover, runs, tolerance, limit, Nat.zero_le _⟩

/-- R49: a holdover that ends leaves the quality FREE. -/
theorem TimebaseSound.leaveHoldover {c : Capture} (sound : TimebaseSound c) (set : c.timebase.quality ≠ .unset) :
    TimebaseSound { c with timebase := { c.timebase with
      quality := .free, holdoverEntry := none, acceptedRun := 0, rejectedRun := 0 } } := by
  obtain ⟨unset, -, -, -, -, tolerance, limit, hold⟩ := sound
  exact ⟨⟨fun h => (nomatch h), fun h => absurd (unset.mpr h) set⟩, fun h => (nomatch h), fun h => (nomatch h),
    ⟨fun h => (nomatch h), fun h => (nomatch h)⟩, fun _ => ⟨rfl, rfl⟩, tolerance, limit, hold⟩

/-- A holdover that has run out is a holdover. -/
theorem Timebase.quality_of_holdoverDue {now : Nat} {t : Timebase} (due : t.holdoverDue now = true) : t.quality = .holdover := by
  unfold Timebase.holdoverDue at due
  split at due
  · assumption
  · cases due

theorem Timebase.quality_of_lossDue {now : Nat} {t : Timebase} (due : t.lossDue now = true) : t.quality = .locked := by
  unfold Timebase.lossDue at due
  split at due
  · assumption
  · cases due

theorem TimebaseSound.endHoldover {c : Capture} (sound : TimebaseSound c) :
    TimebaseSound { c with timebase := c.timebase.endHoldover c.elapsed } := by
  unfold Timebase.endHoldover
  split
  · rename_i due
    exact sound.leaveHoldover (by rw [Timebase.quality_of_holdoverDue due]; decide)
  · exact sound

/-- R48: the loss of lock. -/
theorem TimebaseSound.lose {c : Capture} (sound : TimebaseSound c) :
    TimebaseSound { c with timebase := c.timebase.lose c.elapsed } := by
  unfold Timebase.lose
  split
  · rename_i due
    have lockedNow := Timebase.quality_of_lossDue due
    obtain ⟨unset, -, locked, -, runs, tolerance, limit, hold⟩ := sound
    refine ⟨⟨fun h => (nomatch h), fun h => ?_⟩, fun h => (nomatch h), fun h => (nomatch h),
      ⟨fun _ => rfl, fun _ => rfl⟩, fun off => ⟨rfl, (runs off).2⟩, tolerance, limit, hold⟩
    exact absurd (lockedNow.symm.trans (unset.mpr h)) (by decide)
  · exact sound

/-- R51: disabling sync leaves UNSET and FREE as they are and makes LOCKED and HOLDOVER FREE. -/
theorem Quality.undisciplined_cases (q : Quality) : q.undisciplined = if q = .unset then .unset else .free := by
  cases q <;> rfl

theorem TimebaseSound.configure {c : Capture} (sound : TimebaseSound c) (enable : Bool) (edge : Edge) {tolerance limit : Nat}
    (ranges : 1 ≤ tolerance ∧ tolerance ≤ 50000 ∧ 1 ≤ limit ∧ limit ≤ 86400) :
    TimebaseSound { c with timebase := c.timebase.configure enable edge tolerance limit c.elapsed } := by
  obtain ⟨t1, t2, l1, l2⟩ := ranges
  obtain ⟨unset, start, locked, holdover, runs, -, -, hold⟩ := sound
  simp only [Timebase.configure]
  split
  · have quality : c.timebase.quality.undisciplined = .unset ↔ c.timebase.quality = .unset := by
      rw [Quality.undisciplined_cases]; split <;> simp_all
    have notLocked : c.timebase.quality.undisciplined ≠ .locked := by
      rw [Quality.undisciplined_cases]; split <;> decide
    have notHoldover : c.timebase.quality.undisciplined ≠ .holdover := by
      rw [Quality.undisciplined_cases]; split <;> decide
    exact ⟨quality.trans unset, fun h => start (quality.mp h), fun h => absurd h notLocked,
      ⟨fun h => absurd h notHoldover, fun h => (nomatch h)⟩, fun _ => ⟨rfl, rfl⟩, ⟨t1, t2⟩, ⟨l1, l2⟩, hold⟩
  · split
    · rename_i kept
      obtain ⟨on, rfl⟩ := kept
      exact TimebaseSound.endHoldover (c := { c with timebase := { c.timebase with
          syncEnable := true, activeEdge := edge, tolerance := tolerance, holdoverLimit := limit } })
        ⟨unset, start, fun h => ⟨(locked h).1, rfl⟩, holdover, fun off => (nomatch off), ⟨t1, t2⟩, ⟨l1, l2⟩, hold⟩
    · rename_i notDisabled notKept
      have wasOff : c.timebase.syncEnable = false := by
        cases on : c.timebase.syncEnable with
        | false => rfl
        | true => cases enable with
          | false => exact absurd ⟨on, rfl⟩ notDisabled
          | true => exact absurd ⟨on, rfl⟩ notKept
      refine ⟨unset, start, fun h => ?_, holdover, fun _ => runs wasOff, ⟨t1, t2⟩, ⟨l1, l2⟩, hold⟩
      exact absurd ((locked h).2.symm.trans wasOff) (by decide)

theorem TimebaseMove.sound {c : Capture} {t : Timebase} (moved : TimebaseMove c.elapsed c.timebase t) (sound : TimebaseSound c) :
    TimebaseSound { c with timebase := t } := by
  cases moved with
  | kept => exact sound
  | pulse enabled set =>
    simp only [Timebase.pulse]
    split
    · rename_i accepted
      exact TimebaseSound.acceptPulse sound.endHold enabled set rfl accepted
    · exact TimebaseSound.rejectPulse sound.endHold enabled set
  | endHold =>
    unfold Timebase.endHold
    split
    · exact sound.endHold
    · exact sound
  | lose => exact sound.lose
  | endHoldover => exact sound.endHoldover
  | configure enable edge tolerance limit ranges => exact sound.configure enable edge ranges

/-- R53: SET_TIME clears the runs and the timers and leaves the quality FREE. -/
theorem TimebaseSound.set {c d : Capture} (sound : TimebaseSound c) (value : Nat) (next : c.timebase.generation ≠ 0xFFFFFFFF#32)
    (timebase : d.timebase = c.timebase.set value) : TimebaseSound d := by
  obtain ⟨-, -, -, -, -, tolerance, limit, -⟩ := sound
  have later : c.timebase.generation + 1#32 ≠ 0#32 := by bv_omega
  simp only [TimebaseSound, Capture.holdRemaining, timebase]
  exact ⟨⟨fun h => (nomatch h), fun h => absurd h later⟩, fun h => (nomatch h), fun h => (nomatch h),
    ⟨fun h => (nomatch h), fun h => (nomatch h)⟩, fun _ => ⟨rfl, rfl⟩, tolerance, limit, Nat.zero_le _⟩

/-- Nothing but the timebase and the elapsed count is looked at. -/
theorem TimebaseSound.ofEq {c d : Capture} (sound : TimebaseSound c) (timebase : d.timebase = c.timebase)
    (elapsed : d.elapsed = c.elapsed) : TimebaseSound d := by
  simpa only [TimebaseSound, Capture.holdRemaining, timebase, elapsed] using sound

/-- One microsecond: an UNSET time value rises with the elapsed count, and a hold shrinks (R39, R46). -/
theorem TimebaseSound.tick {c : Capture} (sound : TimebaseSound c) :
    TimebaseSound { c with elapsed := c.elapsed + 1, timebase := c.timebase.tick } := by
  obtain ⟨unset, start, locked, holdover, runs, tolerance, limit, hold⟩ := sound
  unfold Timebase.tick
  split
  · rename_i none
    exact ⟨unset, fun h => ⟨congrArg (· + 1) (start h).1, none⟩, locked, holdover, runs, tolerance, limit,
      Capture.holdRemaining_le.mpr fun x hx => (nomatch none.symm.trans hx)⟩
  · rename_i expiry running
    refine ⟨unset, fun h => ?_, locked, holdover, runs, tolerance, limit, Capture.holdRemaining_le.mpr fun x hx => ?_⟩
    · exact absurd ((start h).2.symm.trans running) (by simp)
    · have := Capture.holdRemaining_le.mp hold x hx
      simp only
      omega

theorem Capture.powerOn_timebaseSound (levels : BitVec 48) (sync : Level) : TimebaseSound (Capture.powerOn levels sync) := by
  have start : TimebaseSound (Capture.powerOn 0 false) := by decide
  exact start.ofEq rfl rfl

theorem CaptureChange.timebaseSound {c d : Capture} (change : CaptureChange c d) (sound : TimebaseSound c) : TimebaseSound d := by
  cases change with
  | lines horizon reworked => exact sound.ofEq reworked.timebase_eq reworked.elapsed_eq
  | timebase level moved => exact moved.sound sound
  | release n e claim => exact sound
  | disturb q record code => exact sound
  | groups g x => exact sound
  | setTime value systemRing next room => exact sound.set value next (c.setTime_timebase value systemRing)
  | clearStatistics => exact sound.ofEq c.clearStatistics_timebase c.clearStatistics_elapsed
  | powerOn levels sync => exact Capture.powerOn_timebaseSound levels sync

/-- Settles O57: each way a command can move the timebase keeps its parts in agreement, and so does a microsecond. -/
theorem timebaseStaysSound : Obligations.TimebaseStaysSound := by
  intro s t sound run
  obtain move | ⟨-, -, rfl⟩ := step_capture run
  · exact move.change.timebaseSound sound
  · exact TimebaseSound.tick (c := s.capture) sound

end Sys2Proof.Machine
end

section
/-! Proofs about the event archive (Chapter 6): its entries are one range below the sequence counter. -/

namespace Sys2Proof.Machine

-- One declaration at a time: the check of the whole text then stays within its memory.
set_option Elab.async false

/-- R94, R96: what an append makes of the bounds and the number of entries. -/
theorem Archive.append_sound {c : Capture} (sound : ArchiveSound c) (r : Record32) :
    ArchiveSound { c with sequence := c.sequence + 1, archive := c.archive.append c.sequence r } := by
  simp only [ArchiveSound, Archive.append, Archive.full, Config.archiveEntries] at *
  cases bounds : c.archive.bounds with
  | none =>
    simp only [bounds] at sound
    obtain ⟨empty, first⟩ := sound
    simp [empty, first]
  | some b =>
    simp only [bounds] at sound
    obtain ⟨oldest, order, newest, entries, capacity⟩ := sound
    by_cases full : 16384 ≤ c.archive.entries.length
    · simp [full]
      omega
    · simp [full]
      omega

/-- R98: a disturbance leaves the bounds and the number of entries. -/
theorem Archive.disturb_bounds (a : Archive) (q : Nat) (record : Record32) (code : BitVec 16) :
    (a.disturb q record code).bounds = a.bounds ∧ (a.disturb q record code).entries.length = a.entries.length := by
  unfold Archive.disturb
  split
  · exact ⟨rfl, rfl⟩
  · split
    · exact ⟨rfl, List.length_set⟩
    · exact ⟨rfl, rfl⟩

/-- The bounds, the number of entries and the sequence counter decide. -/
theorem ArchiveSound.ofBounds {c d : Capture} (sound : ArchiveSound c) (bounds : d.archive.bounds = c.archive.bounds)
    (entries : d.archive.entries.length = c.archive.entries.length) (sequence : d.sequence = c.sequence) : ArchiveSound d := by
  simp only [ArchiveSound] at *
  cases held : c.archive.bounds with
  | none =>
    simp only [held] at sound
    simp only [bounds, held]
    exact ⟨List.length_eq_zero_iff.mp (by rw [entries, sound.1]; rfl), sequence.trans sound.2⟩
  | some b =>
    simp only [held] at sound
    simpa only [bounds, held, entries, sequence] using sound

/-- A change that is no release leaves the sequence counter and the bounds, a power-on reset excepted (R68, R94). -/
theorem CaptureChange.archive_cases {c d : Capture} (change : CaptureChange c d) :
    (d.sequence = c.sequence ∧ d.archive.bounds = c.archive.bounds ∧ d.archive.entries.length = c.archive.entries.length) ∨
    (∃ r : EventRecord, d.sequence = c.sequence + 1 ∧ d.archive = c.archive.append c.sequence r.archived) ∨
    ∃ levels sync, d = Capture.powerOn levels sync := by
  cases change with
  | lines horizon reworked => rw [reworked.frame]; exact .inl ⟨rfl, rfl, rfl⟩
  | timebase level moved => exact .inl ⟨rfl, rfl, rfl⟩
  | release n e claim => exact .inr (.inl ⟨_, rfl, rfl⟩)
  | disturb q record code =>
    obtain ⟨bounds, entries⟩ := c.archive.disturb_bounds q record code
    exact .inl ⟨rfl, bounds, entries⟩
  | groups g x => exact .inl ⟨rfl, rfl, rfl⟩
  | setTime value systemRing next room => simp only [Capture.setTime, Capture.stage_sequence, Capture.stage_archive]; exact .inl ⟨rfl, rfl, rfl⟩
  | clearStatistics => exact .inl (by simp)
  | powerOn levels sync => exact .inr (.inr ⟨levels, sync, rfl⟩)

theorem CaptureChange.archiveSound {c d : Capture} (change : CaptureChange c d) (sound : ArchiveSound c) : ArchiveSound d := by
  obtain ⟨sequence, bounds, entries⟩ | ⟨r, sequence, archive⟩ | ⟨levels, sync, rfl⟩ := change.archive_cases
  · exact sound.ofBounds bounds entries sequence
  · exact (Archive.append_sound sound r.archived).ofBounds (congrArg Archive.bounds archive)
      (congrArg (fun a => a.entries.length) archive) sequence
  · exact ⟨rfl, rfl⟩

/-- Settles O58: only a release appends, and what a disturbance replaces stays in its place. -/
theorem archiveStaysSound : Obligations.ArchiveStaysSound := by
  intro s t sound run
  obtain move | ⟨-, -, rfl⟩ := step_capture run
  · exact move.change.archiveSound sound
  · exact sound

end Sys2Proof.Machine
end

section
/-! Laws of the lines (Chapters 1 and 2): what a confirmation and a reconfiguration make of a line, and the records they hand over. -/

namespace Sys2Proof.Machine

-- One declaration at a time: the check of the whole text then stays within its memory.
set_option Elab.async false

/-! ### Records handed over where they are created -/

theorem Capture.handedWhen_congr {p q : Prop} [Decidable p] [Decidable q] (h : p ↔ q) (e : Entry) (c : Capture) :
    c.handedWhen p e = c.handedWhen q e := by
  unfold Capture.handedWhen
  by_cases hp : p
  · rw [if_pos hp, if_pos (h.mp hp)]
  · rw [if_neg hp, if_neg fun hq => hp (h.mpr hq)]

theorem Capture.handedWhen_of_not {p : Prop} [Decidable p] (h : ¬ p) (e : Entry) (c : Capture) : c.handedWhen p e = c := if_neg h

/-- A record created under a condition of its own. -/
theorem Capture.ite_handedWhen (p q : Prop) [Decidable p] [Decidable q] (e : Entry) (c : Capture) :
    (if p then c.handedWhen q e else c) = c.handedWhen (p ∧ q) e := by
  by_cases hp : p
  · rw [if_pos hp]
    exact Capture.handedWhen_congr (by simp [hp]) e c
  · rw [if_neg hp, Capture.handedWhen_of_not fun h => hp h.1]

/-! ### The chatter monitor (R21 to R25) -/

section
variable (now : Nat) {l : Line}

/-- Without a limit no transition is counted. -/
theorem chatterMonitor_of_noLimit (noLimit : l.config.chatterLimit = 0) : chatterMonitor now l = (l, .reportEdge) := by
  have notInForce : l.config.chatterInForce = false := by simp [LineConfig.chatterInForce, noLimit]
  rw [chatterMonitor, notInForce]
  rfl

/-- R23: a count below the limit is kept, and its transition reported. -/
theorem chatterMonitor_of_below (inForce : l.config.chatterInForce = true) {count window : Nat}
    (counting : l.chatter = .counting count window) (below : count + 1 < l.config.chatterLimit) :
    chatterMonitor now l = ({ l with chatter := .counting (count + 1) window }, .reportEdge) := by
  simp only [chatterMonitor, if_pos inForce, counting, if_pos below]

/-- R23, R24: the transition that reaches the limit starts an episode. -/
theorem chatterMonitor_of_limit (inForce : l.config.chatterInForce = true) {count window : Nat}
    (counting : l.chatter = .counting count window) (reached : l.config.chatterLimit ≤ count + 1) :
    chatterMonitor now l =
      ({ l with
         chatter := .chattering (now + l.config.quietTime * Config.perMilli), episodeCount := satInc l.episodeCount },
       .replaced (count + 1)) := by
  simp only [chatterMonitor, if_pos inForce, counting, if_neg (Nat.not_lt.mpr reached)]

/-- R25: a transition within an episode restarts the quiet timer. -/
theorem chatterMonitor_of_chattering (inForce : l.config.chatterInForce = true) {quiet : Nat}
    (chattering : l.chatter = .chattering quiet) :
    chatterMonitor now l = ({ l with chatter := .chattering (now + l.config.quietTime * Config.perMilli) }, .noRecord) := by
  simp only [chatterMonitor, if_pos inForce, chattering]

/-- A transition that the statements call counted is one that the monitor counts and reports. -/
theorem CountsTransition.monitor {now : Nat} {x : Chatter} (event : l.config.role = .event) (counts : CountsTransition now l x) :
    chatterMonitor now l = ({ l with chatter := x }, .reportEdge) := by
  have inForce : l.config.chatterLimit ≠ 0 → l.config.chatterInForce = true := fun on =>
    (LineConfig.chatterInForce_iff l.config).mpr ⟨event, on⟩
  cases counts with
  | notInForce off => exact chatterMonitor_of_noLimit now off
  | opens on quiet => exact chatterMonitor_of_quiet now (inForce on) quiet
  | counts count window counting below => exact chatterMonitor_of_below now (inForce (by omega)) counting below

end

/-! ### A confirmation (R9) -/

/-- The line that has come to STABLE at a confirmed level, its transition counted (R10). -/
def Line.settledAt (target : Level) (l : Line) : Line :=
  { l with qualifier := .stable target, transitionCount := satInc l.transitionCount }

/-- What a confirmation makes of its line, but for the shed count. -/
def Line.confirmed (now : Nat) (target : Level) (l : Line) : Line :=
  match l.config.role with
  | .off => l.settledAt target
  | .event => (chatterMonitor now (l.settledAt target)).1
  | .count => { l.settledAt target with
      counter :=
        if Reported l.config.report target then if l.counter = 0xFFFFFFFF#32 then 0 else l.counter + 1#32 else l.counter }

section
variable {c : Capture} {i : LineNo} (target : Level) (capture : Nat) (stamp : Stamp)

theorem Capture.confirm_of_event (event : (c.line i).config.role = .event) :
    c.confirm i target capture stamp = (c.setLine i ((c.line i).settledAt target)).confirmEvent i target capture stamp := by
  simp only [Capture.confirm, event]
  rfl

/-- A transition that the monitor reports is an EDGE where the report field selects it. -/
theorem Capture.confirm_of_reportEdge (event : (c.line i).config.role = .event) {m : Line}
    (monitored : chatterMonitor c.elapsed ((c.line i).settledAt target) = (m, .reportEdge))
    (config : m.config = (c.line i).config) :
    c.confirm i target capture stamp = (c.setLine i m).handedWhen
      (Reported (c.line i).config.report target ∧ (c.groups.get (c.line i).config.group).enabled = true)
      (lineRecordOf (c.groups.get (c.line i).config.group) i (c.line i).config.group .edge target stamp capture 0) := by
  rw [Capture.confirm_of_event target capture stamp event, Capture.confirmEvent, Capture.setLine_elapsed,
    Capture.line_setLine_same, monitored]
  simp only [Capture.setLine_setLine, Capture.createLineRecord_eq, Capture.line_setLine_same, Capture.setLine_groups, config]
  rw [Capture.ite_handedWhen]
  exact Capture.handedWhen_congr (by rw [Report.selects_iff]) _ _

/-- A transition that starts an episode makes a CHATTER_ON. -/
theorem Capture.confirm_of_replaced (event : (c.line i).config.role = .event) {m : Line} {count : Nat}
    (monitored : chatterMonitor c.elapsed ((c.line i).settledAt target) = (m, .replaced count))
    (config : m.config = (c.line i).config) :
    c.confirm i target capture stamp = (c.setLine i m).handedWhen
      ((c.groups.get (c.line i).config.group).enabled = true)
      (lineRecordOf (c.groups.get (c.line i).config.group) i (c.line i).config.group .chatterOn target stamp capture
        (BitVec.ofNat 64 count)) := by
  rw [Capture.confirm_of_event target capture stamp event, Capture.confirmEvent, Capture.setLine_elapsed,
    Capture.line_setLine_same, monitored]
  simp only [Capture.setLine_setLine, Capture.createLineRecord_eq, Capture.line_setLine_same, Capture.setLine_groups, config]

/-- A transition within an episode makes no record. -/
theorem Capture.confirm_of_noRecord (event : (c.line i).config.role = .event) {m : Line}
    (monitored : chatterMonitor c.elapsed ((c.line i).settledAt target) = (m, .noRecord)) :
    c.confirm i target capture stamp = c.setLine i m := by
  rw [Capture.confirm_of_event target capture stamp event, Capture.confirmEvent, Capture.setLine_elapsed,
    Capture.line_setLine_same, monitored]
  exact Capture.setLine_setLine c i _ m

/-- R33, R34: a transition on a COUNT line reaches the counter where it is selected, and a wrap makes a COUNT_WRAP. -/
theorem Capture.confirm_of_count (count : (c.line i).config.role = .count) :
    c.confirm i target capture stamp = (c.setLine i ((c.line i).confirmed c.elapsed target)).handedWhen
      (Reported (c.line i).config.report target ∧ (c.line i).counter = 0xFFFFFFFF#32 ∧
        (c.groups.get (c.line i).config.group).enabled = true)
      (lineRecordOf (c.groups.get (c.line i).config.group) i (c.line i).config.group .countWrap target c.stamp c.elapsed 0) := by
  simp only [Capture.confirm, count, Capture.confirmCount, Capture.line_setLine_same, Capture.setLine_setLine, Line.confirmed,
    Line.settledAt, Report.selects_iff]
  by_cases reported : Reported (c.line i).config.report target
  · by_cases wraps : (c.line i).counter = 0xFFFFFFFF#32
    · rw [if_pos reported, if_pos wraps, if_pos reported, if_pos wraps, Capture.createLineRecord_eq]
      simp only [Capture.line_setLine_same, Capture.setLine_groups]
      exact Capture.handedWhen_congr (by simp only [reported, wraps, true_and]) _ _
    · rw [if_pos reported, if_neg wraps, if_pos reported, if_neg wraps, Capture.handedWhen_of_not fun h => wraps h.2.1]
  · rw [if_neg reported, if_neg reported, Capture.handedWhen_of_not fun h => reported h.1]

/-- A record handed over leaves the lines as they are but for their shed counts. -/
theorem Capture.handedWhen_line (c : Capture) (p : Prop) [Decidable p] (e : Entry) (i : LineNo) :
    SameButShedCount (c.line i) ((c.handedWhen p e).line i) := by
  obtain ⟨-, h⟩ | ⟨-, h⟩ := Capture.handedWhen_cases p e c
  · rw [h]
    exact c.stage_line e i
  · rw [h]

/-- The line that a replacement and a record leave is the replacement but for its shed count. -/
theorem Capture.setLine_handedWhen_line (c : Capture) (i : LineNo) (l : Line) (p : Prop) [Decidable p] (e : Entry) :
    SameButShedCount l (((c.setLine i l).handedWhen p e).line i) := by
  have h := (c.setLine i l).handedWhen_line p e i
  rwa [Capture.line_setLine_same] at h

theorem Capture.confirm_line_confirmed (c : Capture) (i : LineNo) :
    SameButShedCount ((c.line i).confirmed c.elapsed target) ((c.confirm i target capture stamp).line i) := by
  cases role : (c.line i).config.role with
  | off => simp [Capture.confirm, role, Line.confirmed, Line.settledAt]
  | event =>
    have frame := chatterMonitor_frame c.elapsed ((c.line i).settledAt target)
    simp only [Line.confirmed, role]
    cases monitored : chatterMonitor c.elapsed ((c.line i).settledAt target) with
    | mk m outcome =>
      rw [monitored] at frame
      simp only at frame
      have config : m.config = (c.line i).config := by rw [frame]; rfl
      cases outcome with
      | reportEdge =>
        rw [Capture.confirm_of_reportEdge target capture stamp role monitored config]
        exact c.setLine_handedWhen_line i m _ _
      | replaced count =>
        rw [Capture.confirm_of_replaced target capture stamp role monitored config]
        exact c.setLine_handedWhen_line i m _ _
      | noRecord =>
        rw [Capture.confirm_of_noRecord target capture stamp role monitored, Capture.line_setLine_same]
  | count =>
    rw [Capture.confirm_of_count target capture stamp role]
    exact c.setLine_handedWhen_line i _ _ _

end

/-! ### The statements about confirmations -/

/-- A counter that has not reached its end advances by 1. -/
theorem counter_succ (n : BitVec 32) : n + 1#32 = BitVec.ofNat 32 (n.toNat + 1) := by
  apply BitVec.eq_of_toNat_eq
  simp

theorem satInc_toNat (n : BitVec 32) : (satInc n).toNat = min (n.toNat + 1) 0xFFFFFFFF := by
  unfold satInc
  have below := n.isLt
  split
  · rename_i h
    rw [h]
    rfl
  · rename_i h
    have next := toNat_nextGeneration h
    have : n.toNat ≠ 0xFFFFFFFF := fun e => h (BitVec.eq_of_toNat_eq e)
    omega

theorem CountsTransition.settledAt {now : Nat} {l : Line} {x : Chatter} (counts : CountsTransition now l x) (target : Level) :
    CountsTransition now (l.settledAt target) x := by
  cases counts with
  | notInForce off => exact .notInForce (l := l.settledAt target) off
  | opens on quiet => exact .opens (l := l.settledAt target) on quiet
  | counts count window counting below => exact .counts (l := l.settledAt target) count window counting below

/-- A counted transition on an EVENT line is reported as an EDGE where it is selected. -/
theorem Capture.confirm_of_counts {c : Capture} {i : LineNo} (target : Level) (capture : Nat) (stamp : Stamp) {x : Chatter}
    (event : (c.line i).config.role = .event) (counts : CountsTransition c.elapsed (c.line i) x) :
    c.confirm i target capture stamp =
      (c.setLine i { (c.line i).settledAt target with chatter := x }).handedWhen
        (Reported (c.line i).config.report target ∧ (c.groups.get (c.line i).config.group).enabled = true)
        (lineRecordOf (c.groups.get (c.line i).config.group) i (c.line i).config.group .edge target stamp capture 0) :=
  Capture.confirm_of_reportEdge target capture stamp event
    (CountsTransition.monitor (l := (c.line i).settledAt target) event (counts.settledAt target)) rfl

/-- Settles O10: the monitor counts the transition and leaves its report to the qualifier (R9, R11, R12). -/
theorem confirmationReportsEdge : Obligations.ConfirmationReportsEdge := by
  refine ⟨satInc_toNat, fun s i c l target capture stamp x confirms event counts => ?_⟩
  have h := Capture.confirm_of_counts (c := s.capture.setLine i l) (i := i) target capture stamp (x := x)
    (by rwa [Capture.line_setLine_same]) (by rwa [Capture.line_setLine_same])
  rw [exec_of_confirms confirms, h]
  simp only [Capture.line_setLine_same, Capture.setLine_setLine, Capture.setLine_groups]
  rfl

/-- Settles O11: with detection in force the monitor's count decides, and the report field has no say. -/
theorem confirmationInChatter : Obligations.ConfirmationInChatter := by
  intro s i c l target capture stamp confirms event limited
  have inForce : (l.settledAt target).config.chatterInForce = true := (LineConfig.chatterInForce_iff l.config).mpr ⟨event, limited⟩
  have line := s.capture.line_setLine_same i l
  have role : ((s.capture.setLine i l).line i).config.role = .event := by rwa [line]
  rw [exec_of_confirms confirms]
  refine ⟨fun count window counting reached => ?_, fun quiet chattering => ?_⟩
  · have monitored := chatterMonitor_of_limit s.capture.elapsed (l := l.settledAt target) inForce counting reached
    rw [Capture.confirm_of_replaced target capture stamp role (by rw [line]; exact monitored) (by rw [line]; rfl)]
    simp only [line, Capture.setLine_setLine, Capture.setLine_groups]
    rfl
  · have monitored := chatterMonitor_of_chattering s.capture.elapsed (l := l.settledAt target) inForce chattering
    rw [Capture.confirm_of_noRecord target capture stamp role (by rw [line]; exact monitored), Capture.setLine_setLine]
    rfl

/-- Settles O12: the counter bank takes what the report field selects (R33), and the wrap alone makes a record (R34). -/
theorem confirmationCounts : Obligations.ConfirmationCounts := by
  intro s i c l target capture stamp confirms count
  have line := s.capture.line_setLine_same i l
  rw [exec_of_confirms confirms, Capture.confirm_of_count target capture stamp (by rwa [line])]
  simp only [line, Capture.setLine_setLine, Capture.setLine_groups, Line.confirmed, count, Line.settledAt, counter_succ]
  rfl

/-! ### The quiet timer and raw changes -/

theorem Capture.quietDue_iff {c : Capture} {i : LineNo} :
    c.quietDue i = true ↔ ∃ quiet, (c.line i).chatter = .chattering quiet ∧ quiet ≤ c.elapsed := by
  unfold Capture.quietDue
  cases (c.line i).chatter with
  | quiet => simp
  | counting count window => simp
  | chattering quiet => simp

/-- Settles O14: the line is in QUIET before its CHATTER_OFF is made (R27). -/
theorem quietExpiryEndsEpisode : Obligations.QuietExpiryEndsEpisode := by
  intro s i quiet chattering arrived
  have due : s.capture.quietDue i = true := Capture.quietDue_iff.mpr ⟨quiet, chattering, arrived⟩
  simp only [exec, execQuietTimerExpiry, State.onCapture, Capture.quietExpiry, if_pos due, Capture.createChatterOff,
    Capture.createLineRecord_eq, Capture.line_setLine_same, Capture.setLine_groups]
  rfl

/-- R5: away from its stable level, with a debounce above 0, a line has a candidate from now. -/
theorem Capture.qualify_of_debounce {c : Capture} {i : LineNo} (target : Level) (debounced : (c.line i).config.debounce ≠ 0) :
    c.qualify i target =
      c.setLine i { c.line i with qualifier := .candidate (c.line i).qualifier.level target c.elapsed c.stamp } := by
  simp only [Capture.qualify, if_neg debounced]

/-- R6: with debounce 0 the change is confirmed at once. -/
theorem Capture.qualify_of_noDebounce {c : Capture} {i : LineNo} (target : Level) (atOnce : (c.line i).config.debounce = 0) :
    c.qualify i target = c.confirm i target c.elapsed c.stamp := by
  simp only [Capture.qualify, if_pos atOnce]

/-- A raw change of a line in STABLE is qualified with the new raw level recorded. -/
theorem Capture.rawChange_of_stable {c : Capture} {i : LineNo} {raw level : Level} (changed : (c.line i).raw ≠ raw)
    (stable : (c.line i).qualifier = .stable level) :
    c.rawChange i raw = (c.setLine i { c.line i with raw := raw }).qualify i ((c.line i).config.logical raw) := by
  simp only [Capture.rawChange, if_neg changed, stable]

/-- R7: a raw change of a line in CANDIDATE returns it to its stable level. -/
theorem Capture.rawChange_of_candidate {c : Capture} {i : LineNo} {raw level target : Level} {capture : Nat} {stamp : Stamp}
    (changed : (c.line i).raw ≠ raw) (candidate : (c.line i).qualifier = .candidate level target capture stamp) :
    c.rawChange i raw =
      c.setLine i { c.line i with raw := raw, qualifier := .stable level, glitchCount := satInc (c.line i).glitchCount } := by
  simp only [Capture.rawChange, if_neg changed, candidate]

/-- Settles O9: the two states of a line outside OFF decide what a raw change does. -/
theorem rawChangeStartsOrCancelsCandidate : Obligations.RawChangeStartsOrCancelsCandidate := by
  intro s i raw changed
  refine ⟨fun level stable debounced => ?_, fun level target capture stamp candidate => ?_⟩
  · have waits : s.capture.rawChange i raw = s.capture.setLine i { s.capture.line i with
        raw := raw
        qualifier := .candidate (s.capture.line i).qualifier.level (raw != (s.capture.line i).config.invert) s.capture.elapsed
          s.capture.stamp } := by
      rw [Capture.rawChange_of_stable changed stable, Capture.qualify_of_debounce, Capture.line_setLine_same,
        Capture.setLine_setLine]
      · rfl
      · rw [Capture.line_setLine_same]
        exact Nat.ne_of_gt debounced
    rw [stable] at waits
    exact congrArg (fun d => Host.Outcome.next { s with capture := d }) waits
  · simp only [exec, execRawChange, State.onCapture, Capture.rawChange_of_candidate changed candidate]

/-! ### A reconfiguration of one line (R15 to R18) -/

/-- R16 to R18: the line with its new configuration, its chatter state at rest, and its counter kept within COUNT role. -/
def Line.rested (cfg : LineConfig) (l : Line) : Line :=
  { l with config := cfg, chatter := .quiet, counter := if l.config.role = cfg.role then l.counter else 0 }

/-- What a reconfiguration makes of a sound line, but for the shed count. -/
def Line.reconfigured (cfg : LineConfig) (now : Nat) (stamp : Stamp) (l : Line) : Line :=
  if cfg.role = .off then { l.rested cfg with qualifier := .off }
  else if l.qualifier.moment = none then { l.rested cfg with qualifier := .stable (cfg.logical l.raw) }
  else if cfg.debounce = 0 then (l.rested cfg).confirmed now (cfg.logical l.raw)
  else { l.rested cfg with qualifier := .candidate (!cfg.logical l.raw) (cfg.logical l.raw) now stamp }

/-- A sound line is in OFF role exactly where its qualifier state is OFF (R1, R3). -/
theorem Line.Sound.off_iff {l : Line} (sound : l.Sound) : l.config.role = .off ↔ l.qualifier = .off := by
  obtain ⟨-, agrees, -, -⟩ := sound
  unfold Line.QualifierAgrees at agrees
  cases q : l.qualifier with
  | off => simp only [q] at agrees; exact ⟨fun _ => rfl, fun _ => agrees⟩
  | stable level => simp only [q] at agrees; exact ⟨fun off => absurd off agrees.1, nofun⟩
  | candidate level target capture stamp => simp only [q] at agrees; exact ⟨fun off => absurd off agrees.1, nofun⟩

/-- A sound line outside EVENT role is at rest in its chatter state (R21). -/
theorem Line.Sound.quiet_of_not_event {l : Line} (sound : l.Sound) (other : l.config.role ≠ .event) : l.chatter = .quiet := by
  obtain ⟨-, -, agrees, -⟩ := sound
  have notInForce : ¬ l.config.chatterInForce = true := fun h => other ((LineConfig.chatterInForce_iff l.config).mp h).1
  unfold Line.ChatterAgrees at agrees
  cases x : l.chatter with
  | quiet => rfl
  | counting count window => simp only [x] at agrees; exact absurd agrees.1 notInForce
  | chattering quiet => simp only [x] at agrees; exact absurd agrees notInForce

theorem Chatter.isChattering_iff (x : Chatter) : x.isChattering = true ↔ ∃ quiet, x = .chattering quiet := by
  cases x <;> simp [Chatter.isChattering]

/-- A sound line in an episode is in EVENT role. -/
theorem Line.Sound.event_of_chattering {l : Line} (sound : l.Sound) {quiet : Nat} (chattering : l.chatter = .chattering quiet) :
    l.config.role = .event := by
  by_contra other
  exact absurd (chattering.symm.trans (sound.quiet_of_not_event other)) nofun

section
variable {c : Capture} {i : LineNo} {cfg : LineConfig}

/-- R17: the CHATTER_OFF that a reconfiguration owes a sound line. -/
theorem Capture.closeEpisode_eq (sound : (c.line i).Sound) {closes : Bool}
    (owed : closes = true ↔
      (∃ quiet, (c.line i).chatter = .chattering quiet) ∧ (c.groups.get (c.line i).config.group).enabled = true) :
    c.closeEpisode i = c.handedWhen (closes = true)
      (lineRecordOf (c.groups.get (c.line i).config.group) i (c.line i).config.group .chatterOff (c.line i).qualifier.level
        c.stamp c.elapsed 0) := by
  unfold Capture.closeEpisode Capture.createChatterOff
  by_cases episode : ∃ quiet, (c.line i).chatter = .chattering quiet
  · obtain ⟨quiet, chattering⟩ := episode
    rw [if_pos ⟨sound.event_of_chattering chattering, (Chatter.isChattering_iff _).mpr ⟨quiet, chattering⟩⟩,
      Capture.createLineRecord_eq]
    exact Capture.handedWhen_congr (by simp [owed, chattering]) _ _
  · rw [if_neg fun h => episode ((Chatter.isChattering_iff _).mp h.2),
      Capture.handedWhen_of_not fun h => episode (owed.mp h).1]

/-- A line in QUIET owes no CHATTER_OFF. -/
theorem Capture.closeEpisode_of_quiet (quiet : (c.line i).chatter = .quiet) : c.closeEpisode i = c := by
  rw [Capture.closeEpisode, quiet]
  exact if_neg fun h => (nomatch h.2)

/-- What closing an episode leaves as it was. -/
theorem Capture.closeEpisode_frame (c : Capture) (i : LineNo) :
    (c.closeEpisode i).elapsed = c.elapsed ∧ (c.closeEpisode i).stamp = c.stamp ∧ (c.closeEpisode i).groups = c.groups :=
  have kept := Reworks.closeEpisode .refl i
  ⟨kept.elapsed_eq, kept.stamp_eq, (ActsOnLine.closeEpisode i c).groups_eq⟩

/-- The level of a line in STABLE or CANDIDATE, under the new invert (R18, step 3). -/
theorem Line.Sound.reinverted {l : Line} (sound : l.Sound) (on : l.config.role ≠ .off) (cfg : LineConfig) :
    (l.qualifier.level != (l.config.invert != cfg.invert)) =
      if l.qualifier.moment = none then cfg.logical l.raw else !cfg.logical l.raw := by
  obtain ⟨-, agrees, -, -⟩ := sound
  unfold Line.QualifierAgrees at agrees
  cases q : l.qualifier with
  | off => simp only [q] at agrees; exact absurd agrees on
  | stable level =>
    simp only [q] at agrees
    simp only [Qualifier.level, Qualifier.moment, if_true, ← agrees.2, LineConfig.logical]
    cases l.raw <;> cases l.config.invert <;> cases cfg.invert <;> rfl
  | candidate level target capture stamp =>
    simp only [q] at agrees
    simp only [Qualifier.level, Qualifier.moment, reduceCtorEq, if_false, agrees.2.2, ← agrees.2.1, LineConfig.logical]
    cases l.raw <;> cases l.config.invert <;> cases cfg.invert <;> rfl

/-- R18: a line that remains in EVENT or COUNT role, from its level under the new invert and the level of its raw level. -/
theorem Capture.configureKept_eq {level target : Level}
    (inverted : (((c.closeEpisode i).line i).qualifier.level != (((c.closeEpisode i).line i).config.invert != cfg.invert)) = level)
    (sampled : cfg.logical ((c.closeEpisode i).line i).raw = target) :
    c.configureKept i cfg =
      if target = level then
        (c.closeEpisode i).setLine i { ((c.closeEpisode i).line i).rested cfg with qualifier := .stable level }
      else
        ((c.closeEpisode i).setLine i { ((c.closeEpisode i).line i).rested cfg with qualifier := .stable level }).qualify i target := by
  subst inverted sampled
  rfl

/-- A reconfiguration of a line in OFF (R16), said as of any other. -/
theorem Capture.configureLine_of_wasOff (sound : (c.line i).Sound) (wasOff : (c.line i).config.role = .off) :
    c.configureLine cfg i = (c.closeEpisode i).setLine i { ((c.closeEpisode i).line i).rested cfg with
      qualifier := if cfg.role = .off then .off else .stable (cfg.logical (c.line i).raw) } := by
  have off := sound.off_iff.mp wasOff
  have quiet := sound.quiet_of_not_event (by rw [wasOff]; exact nofun)
  have counter : (c.line i).counter = 0 := sound.2.2.2 (by rw [wasOff]; exact nofun)
  rw [Capture.closeEpisode_of_quiet quiet, Capture.configureLine, if_pos wasOff, Capture.configureFromOff]
  by_cases goesOff : cfg.role = .off
  · simp only [if_pos goesOff, Line.rested, counter, ite_self]
    rw [← off, ← quiet, ← counter]
  · simp only [if_neg goesOff, Line.rested, counter, ite_self]

/-- A reconfiguration that confirms nothing: the line at rest, with its candidate restarted where it had one. -/
theorem Capture.configureLine_of_rests (sound : (c.line i).Sound)
    (rests : (c.line i).qualifier.moment = none ∨ cfg.debounce ≠ 0 ∨ cfg.role = .off) :
    c.configureLine cfg i = (c.closeEpisode i).setLine i { ((c.closeEpisode i).line i).rested cfg with
      qualifier :=
        if cfg.role = .off then .off
        else if (c.line i).qualifier.moment = none then .stable (cfg.logical (c.line i).raw)
        else .candidate (!cfg.logical (c.line i).raw) (cfg.logical (c.line i).raw) c.elapsed c.stamp } := by
  obtain ⟨elapsed, stamp, -⟩ := c.closeEpisode_frame i
  have same := c.closeEpisode_line i i
  by_cases wasOff : (c.line i).config.role = .off
  · rw [Capture.configureLine_of_wasOff sound wasOff, sound.off_iff.mp wasOff]
    rfl
  rw [Capture.configureLine, if_neg wasOff]
  by_cases goesOff : cfg.role = .off
  · have changed : ((c.closeEpisode i).line i).config.role ≠ cfg.role := by rw [same, goesOff]; exact wasOff
    simp only [if_pos goesOff, Capture.configureToOff, Line.rested, if_neg changed]
  · have inverted : (((c.closeEpisode i).line i).qualifier.level != (((c.closeEpisode i).line i).config.invert != cfg.invert)) =
        if (c.line i).qualifier.moment = none then cfg.logical (c.line i).raw else !cfg.logical (c.line i).raw := by
      rw [same]
      exact sound.reinverted wasOff cfg
    have sampled : cfg.logical ((c.closeEpisode i).line i).raw = cfg.logical (c.line i).raw := by rw [same]
    rw [if_neg goesOff, if_neg goesOff, Capture.configureKept_eq inverted sampled]
    by_cases settled : (c.line i).qualifier.moment = none
    · rw [if_pos settled, if_pos rfl, if_pos settled]
    · have debounced : cfg.debounce ≠ 0 := (rests.resolve_left settled).resolve_right goesOff
      rw [if_neg settled, if_neg (by simp), if_neg settled, Capture.qualify_of_debounce, Capture.line_setLine_same,
        Capture.setLine_setLine, Capture.setLine_elapsed, Capture.stamp_setLine, elapsed, stamp]
      · rfl
      · rw [Capture.line_setLine_same]
        exact debounced

/-- R18, step 6: with debounce 0 the candidate's transition is confirmed at once, under the new configuration. -/
theorem Capture.configureLine_of_confirms (sound : (c.line i).Sound) (pending : (c.line i).qualifier.moment ≠ none)
    (atOnce : cfg.debounce = 0) (on : cfg.role ≠ .off) :
    c.configureLine cfg i =
      ((c.closeEpisode i).setLine i { ((c.closeEpisode i).line i).rested cfg with
        qualifier := .stable (!cfg.logical (c.line i).raw) }).confirm i (cfg.logical (c.line i).raw) c.elapsed c.stamp := by
  obtain ⟨elapsed, stamp, -⟩ := c.closeEpisode_frame i
  have same := c.closeEpisode_line i i
  have wasOn : (c.line i).config.role ≠ .off := fun off => pending (by rw [sound.off_iff.mp off]; rfl)
  have inverted : (((c.closeEpisode i).line i).qualifier.level != (((c.closeEpisode i).line i).config.invert != cfg.invert)) =
      !cfg.logical (c.line i).raw := by
    rw [same]
    exact (sound.reinverted wasOn cfg).trans (if_neg pending)
  have sampled : cfg.logical ((c.closeEpisode i).line i).raw = cfg.logical (c.line i).raw := by rw [same]
  rw [Capture.configureLine, if_neg wasOn, if_neg on, Capture.configureKept_eq inverted sampled, if_neg (by simp),
    Capture.qualify_of_noDebounce, Capture.setLine_elapsed, Capture.stamp_setLine, elapsed, stamp]
  rw [Capture.line_setLine_same]
  exact atOnce

/-- The chatter monitor has no regard to the shed count. -/
theorem chatterMonitor_shedCount (now : Nat) (l : Line) (shed : BitVec 32) :
    (chatterMonitor now { l with shedCount := shed }).1 = { (chatterMonitor now l).1 with shedCount := shed } := by
  by_cases inForce : l.config.chatterInForce = true
  · cases chatter : l.chatter with
    | quiet => simp only [chatterMonitor, if_pos inForce, chatter]
    | counting count window =>
      by_cases below : count + 1 < l.config.chatterLimit
      · simp only [chatterMonitor, if_pos inForce, chatter, if_pos below]
      · simp only [chatterMonitor, if_pos inForce, chatter, if_neg below]
    | chattering quiet => simp only [chatterMonitor, if_pos inForce, chatter]
  · simp only [chatterMonitor, if_neg inForce]

/-- A confirmation has no regard to the shed count. -/
theorem Line.confirmed_shedCount (now : Nat) (target : Level) (l : Line) (shed : BitVec 32) :
    { l with shedCount := shed }.confirmed now target = { l.confirmed now target with shedCount := shed } := by
  cases role : l.config.role with
  | off => simp only [Line.confirmed, role, Line.settledAt]
  | count => simp only [Line.confirmed, role, Line.settledAt]
  | event =>
    simp only [Line.confirmed, role]
    exact chatterMonitor_shedCount now (l.settledAt target) shed

theorem SameButShedCount.iff_exists {l m : Line} : SameButShedCount l m ↔ ∃ shed, m = { l with shedCount := shed } := by
  refine ⟨fun h => ⟨m.shedCount, h⟩, ?_⟩
  rintro ⟨shed, rfl⟩
  rfl

theorem SameButShedCount.trans {l m n : Line} (h : SameButShedCount l m) (k : SameButShedCount m n) : SameButShedCount l n := by
  unfold SameButShedCount at *
  rw [k, h]

theorem SameButShedCount.confirmed_rested {l m : Line} (h : SameButShedCount l m) (cfg : LineConfig) (now : Nat) (target : Level) :
    SameButShedCount ((l.rested cfg).confirmed now target) ((m.rested cfg).confirmed now target) := by
  obtain ⟨shed, rfl⟩ := SameButShedCount.iff_exists.mp h
  exact SameButShedCount.iff_exists.mpr ⟨shed, Line.confirmed_shedCount now target (l.rested cfg) shed⟩

/-- The line that a reconfiguration leaves, but for its shed count. -/
theorem Capture.configureLine_line (cfg : LineConfig) (sound : (c.line i).Sound) :
    SameButShedCount ((c.line i).reconfigured cfg c.elapsed c.stamp) ((c.configureLine cfg i).line i) := by
  have same := c.closeEpisode_line i i
  have atElapsed := (c.closeEpisode_frame i).1
  unfold Line.reconfigured
  by_cases rests : (c.line i).qualifier.moment = none ∨ cfg.debounce ≠ 0 ∨ cfg.role = .off
  · rw [Capture.configureLine_of_rests sound rests, Capture.line_setLine_same, same]
    by_cases off : cfg.role = .off
    · simp only [if_pos off, Line.rested]
    · by_cases settled : (c.line i).qualifier.moment = none
      · simp only [if_neg off, if_pos settled, Line.rested]
      · have debounced : cfg.debounce ≠ 0 := (rests.resolve_left settled).resolve_right off
        simp only [if_neg off, if_neg settled, if_neg debounced, Line.rested]
  · simp only [not_or, not_not] at rests
    obtain ⟨pending, atOnce, on⟩ := rests
    rw [Capture.configureLine_of_confirms sound pending atOnce on, if_neg on, if_neg pending, if_pos atOnce]
    have confirmed := Capture.confirm_line_confirmed (cfg.logical (c.line i).raw) c.elapsed c.stamp
      ((c.closeEpisode i).setLine i { ((c.closeEpisode i).line i).rested cfg with
        qualifier := .stable (!cfg.logical (c.line i).raw) }) i
    rw [Capture.line_setLine_same, Capture.setLine_elapsed, atElapsed] at confirmed
    exact (same.confirmed_rested cfg c.elapsed (cfg.logical (c.line i).raw)).trans confirmed

end

/-- Settles O17: a sound line's level and raw level tell whether it had a candidate, and the new debounce whether that is confirmed
at once. -/
theorem reconfigurationClosesEpisode : Obligations.ReconfigurationClosesEpisode := by
  intro c c1 i cfg target kept closes sound owed closed sampled counter
  have same := c.closeEpisode_line i i
  have groups := (c.closeEpisode_frame i).2.2
  have elapsed := (c.closeEpisode_frame i).1
  have stamp := (c.closeEpisode_frame i).2.1
  rw [← Capture.closeEpisode_eq sound owed] at closed
  subst closed
  have sampled' : cfg.logical (c.line i).raw = target := sampled.symm
  have counter' : (if ((c.closeEpisode i).line i).config.role = cfg.role then ((c.closeEpisode i).line i).counter else 0) = kept := by
    rw [same]; exact counter.symm
  have transitions : ((c.closeEpisode i).line i).transitionCount = (c.line i).transitionCount := by rw [same]
  refine ⟨fun rests => ?_, fun pending atOnce event => ?_, fun pending atOnce count => ?_⟩
  · rw [Capture.configureLine_of_rests sound rests, sampled', Line.rested, counter']
  · have on : cfg.role ≠ .off := by rw [event]; exact nofun
    rw [Capture.configureLine_of_confirms sound pending atOnce on, sampled']
    generalize (c.closeEpisode i) = d at *
    rw [Capture.confirm_of_counts (x := if cfg.chatterLimit = 0 then .quiet else .counting 1 (c.elapsed + cfg.chatterWindow * 1000))]
    · simp only [Capture.line_setLine_same, Capture.setLine_setLine, Line.rested, Line.settledAt, counter', transitions,
        Capture.setLine_groups, groups]
    · rw [Capture.line_setLine_same]
      exact event
    · rw [Capture.line_setLine_same, Capture.setLine_elapsed, elapsed]
      by_cases limited : cfg.chatterLimit = 0
      · rw [if_pos limited]
        exact .notInForce (l := { (d.line i).rested cfg with qualifier := _ }) limited
      · rw [if_neg limited]
        exact .opens (l := { (d.line i).rested cfg with qualifier := _ }) limited rfl
  · have on : cfg.role ≠ .off := by rw [count]; exact nofun
    rw [count] at counter'
    rw [Capture.configureLine_of_confirms sound pending atOnce on, sampled', Capture.confirm_of_count]
    · simp only [Capture.line_setLine_same, Capture.setLine_setLine, Line.rested, Line.settledAt, counter', transitions,
        Capture.setLine_groups, groups, Line.confirmed, count, counter_succ, Capture.stamp_setLine, Capture.setLine_elapsed,
        stamp, elapsed]
    · rw [Capture.line_setLine_same]
      exact count

end Sys2Proof.Machine
end

section
/-! Proofs about the lines (Chapters 1 and 2): every step keeps them sound, and the horizon that of R19. -/

namespace Sys2Proof.Machine

-- One declaration at a time: the check of the whole text then stays within its memory.
set_option Elab.async false

/-! ### Sound lines -/

theorem Line.Sound.ofShed {l m : Line} (sound : l.Sound) (same : SameButShedCount l m) : m.Sound := by
  rw [same]
  exact sound

/-- R21 to R25: the chatter monitor keeps an EVENT line sound; the limit is never 1, so a window may open. -/
theorem chatterMonitor_sound (now : Nat) {l : Line} (sound : l.Sound) (event : l.config.role = .event) :
    (chatterMonitor now l).1.Sound := by
  obtain ⟨ranges, qualifier, chatter, counter⟩ := sound
  by_cases noLimit : l.config.chatterLimit = 0
  · rw [chatterMonitor_of_noLimit now noLimit]
    exact ⟨ranges, qualifier, chatter, counter⟩
  have inForce := (LineConfig.chatterInForce_iff l.config).mpr ⟨event, noLimit⟩
  cases x : l.chatter with
  | quiet =>
    rw [chatterMonitor_of_quiet now inForce x]
    have notOne := ranges.2.1
    exact ⟨ranges, qualifier, ⟨inForce, le_rfl, by simp only; omega⟩, counter⟩
  | counting count window =>
    by_cases below : count + 1 < l.config.chatterLimit
    · rw [chatterMonitor_of_below now inForce x below]
      exact ⟨ranges, qualifier, ⟨inForce, Nat.succ_le_succ (Nat.zero_le _), below⟩, counter⟩
    · rw [chatterMonitor_of_limit now inForce x (Nat.le_of_not_lt below)]
      exact ⟨ranges, qualifier, inForce, counter⟩
  | chattering quiet =>
    rw [chatterMonitor_of_chattering now inForce x]
    exact ⟨ranges, qualifier, inForce, counter⟩

/-- R9: a confirmation at the level of the raw level leaves a sound line, whatever the qualifier state was before it. -/
theorem Line.confirmed_sound (now : Nat) {target : Level} {l : Line} (ranges : l.config.InRange) (on : l.config.role ≠ .off)
    (sampled : l.config.logical l.raw = target) (chatter : l.ChatterAgrees) (counter : l.config.role ≠ .count → l.counter = 0) :
    (l.confirmed now target).Sound ∧ (l.confirmed now target).config = l.config := by
  have settled : (l.settledAt target).Sound := ⟨ranges, ⟨on, sampled⟩, chatter, counter⟩
  cases role : l.config.role with
  | off => exact absurd role on
  | event =>
    simp only [Line.confirmed, role]
    exact ⟨chatterMonitor_sound now settled role, by rw [chatterMonitor_frame]; rfl⟩
  | count =>
    simp only [Line.confirmed, role]
    exact ⟨⟨ranges, ⟨on, sampled⟩, chatter, fun other => absurd role other⟩, rfl⟩

/-- A new raw level is the other one. -/
theorem LineConfig.logical_changed (cfg : LineConfig) {old raw : Level} (changed : old ≠ raw) : cfg.logical raw = !cfg.logical old := by
  unfold LineConfig.logical
  cases old <;> cases raw <;> simp_all

/-- R16 to R18: a reconfiguration of a sound line with values in range leaves it sound. -/
theorem Line.reconfigured_sound {cfg : LineConfig} (now : Nat) (stamp : Stamp) {l : Line} (sound : l.Sound) (ranges : cfg.InRange) :
    (l.reconfigured cfg now stamp).Sound := by
  have counter : cfg.role ≠ .count → (l.rested cfg).counter = 0 := fun other => by
    simp only [Line.rested]
    split
    · rename_i same
      exact sound.2.2.2 (same ▸ other)
    · rfl
  unfold Line.reconfigured
  split
  · rename_i off
    exact ⟨ranges, off, trivial, counter⟩
  · rename_i on
    split
    · exact ⟨ranges, ⟨on, rfl⟩, trivial, counter⟩
    · split
      · exact (Line.confirmed_sound now (l := l.rested cfg) ranges on rfl trivial counter).1
      · exact ⟨ranges, ⟨on, rfl, rfl⟩, trivial, counter⟩

/-- R54: a candidate re-stamped. -/
theorem Line.restamp_sound (now : Nat) (stamp : Stamp) {l : Line} (sound : l.Sound) : (l.restamp now stamp).Sound := by
  obtain ⟨ranges, qualifier, chatter, counter⟩ := sound
  unfold Line.restamp
  unfold Line.QualifierAgrees at qualifier
  cases q : l.qualifier with
  | off => exact ⟨ranges, by simpa only [Line.QualifierAgrees, q] using qualifier, chatter, counter⟩
  | stable level => exact ⟨ranges, by simpa only [Line.QualifierAgrees, q] using qualifier, chatter, counter⟩
  | candidate level target capture old =>
    simp only [q] at qualifier
    exact ⟨ranges, qualifier, chatter, counter⟩

/-- A line without its counter, or in QUIET, is still sound. -/
theorem Line.Sound.clearCounter {l : Line} (sound : l.Sound) : { l with counter := 0 }.Sound :=
  ⟨sound.1, sound.2.1, sound.2.2.1, fun _ => rfl⟩

theorem Line.Sound.closeChatter {l : Line} (sound : l.Sound) : { l with chatter := .quiet }.Sound :=
  ⟨sound.1, sound.2.1, trivial, sound.2.2.2⟩

/-! ### The line that a command acts on -/

/-- A sound line with the configuration it had. -/
def Line.Follows (l m : Line) : Prop := m.Sound ∧ m.config = l.config

theorem Line.Follows.ofShed {l m n : Line} (follows : l.Follows m) (same : SameButShedCount m n) : l.Follows n :=
  ⟨follows.1.ofShed same, by rw [same]; exact follows.2⟩

section
variable {c : Capture} {i : LineNo} (sound : (c.line i).Sound)
include sound

theorem Capture.rawChange_follows (raw : Level) : (c.line i).Follows ((c.rawChange i raw).line i) := by
  obtain ⟨ranges, agrees, chatter, counter⟩ := sound
  by_cases same : (c.line i).raw = raw
  · rw [Capture.rawChange, if_pos same]
    exact ⟨⟨ranges, agrees, chatter, counter⟩, rfl⟩
  have flipped := (c.line i).config.logical_changed same
  unfold Line.QualifierAgrees at agrees
  cases q : (c.line i).qualifier with
  | off =>
    simp only [q] at agrees
    rw [Capture.rawChange_of_off raw q, Capture.line_setLine_same]
    exact ⟨⟨ranges, by simpa only [Line.QualifierAgrees, q] using agrees, chatter, counter⟩, rfl⟩
  | stable level =>
    simp only [q] at agrees
    obtain ⟨on, sampled⟩ := agrees
    rw [Capture.rawChange_of_stable same q]
    by_cases atOnce : (c.line i).config.debounce = 0
    · rw [Capture.qualify_of_noDebounce _ (by rw [Capture.line_setLine_same]; exact atOnce)]
      refine Line.Follows.ofShed ?_ (Capture.confirm_line_confirmed ((c.line i).config.logical raw) _ _ _ i)
      rw [Capture.line_setLine_same]
      exact Line.confirmed_sound _ (l := { c.line i with raw := raw }) ranges on rfl chatter counter
    · rw [Capture.qualify_of_debounce _ (by rw [Capture.line_setLine_same]; exact atOnce), Capture.line_setLine_same,
        Capture.line_setLine_same]
      refine ⟨⟨ranges, ⟨on, rfl, ?_⟩, chatter, counter⟩, rfl⟩
      simp only [q, Qualifier.level, ← sampled, flipped, Bool.not_not]
  | candidate level target capture stamp =>
    simp only [q] at agrees
    obtain ⟨on, sampled, opposite⟩ := agrees
    rw [Capture.rawChange_of_candidate same q, Capture.line_setLine_same]
    exact ⟨⟨ranges, ⟨on, by rw [opposite, ← sampled]; exact flipped⟩, chatter, counter⟩, rfl⟩

theorem Capture.debounceExpiry_follows : (c.line i).Follows ((c.debounceExpiry i).line i) := by
  unfold Capture.debounceExpiry
  split
  · split
    · rename_i level target capture stamp q
      obtain ⟨ranges, agrees, chatter, counter⟩ := sound
      simp only [Line.QualifierAgrees, q] at agrees
      obtain ⟨on, sampled, -⟩ := agrees
      exact Line.Follows.ofShed (Line.confirmed_sound c.elapsed ranges on sampled chatter counter)
        (c.confirm_line_confirmed target capture stamp i)
    all_goals exact ⟨sound, rfl⟩
  · exact ⟨sound, rfl⟩

theorem Capture.windowExpiry_follows : (c.line i).Follows ((c.windowExpiry i).line i) := by
  unfold Capture.windowExpiry
  split
  · rw [Capture.line_setLine_same]
    exact ⟨sound.closeChatter, rfl⟩
  · exact ⟨sound, rfl⟩

theorem Capture.quietExpiry_follows : (c.line i).Follows ((c.quietExpiry i).line i) := by
  unfold Capture.quietExpiry
  split
  · refine Line.Follows.ofShed ?_ (Capture.createLineRecord_line _ i i _ _ _ _ _)
    rw [Capture.line_setLine_same]
    exact ⟨sound.closeChatter, rfl⟩
  · exact ⟨sound, rfl⟩

end

/-! ### All lines -/

/-- The horizon looks at nothing of a line but its configuration (R19). -/
theorem largestDebounce_congr {a b : Vector Line 48} (h : ∀ i, (a.get i).config = (b.get i).config) :
    largestDebounce a = largestDebounce b := by
  simp only [largestDebounce, h]

/-- Lines that follow theirs leave the lines sound and the horizon right. -/
theorem LinesSound.ofFollows {c d : Capture} (horizon : HorizonSound c) (kept : d.horizon = c.horizon)
    (follows : ∀ j, (c.line j).Follows (d.line j)) : LinesSound d ∧ HorizonSound d :=
  ⟨fun j => (follows j).1, by
    rw [HorizonSound, kept, horizon, largestDebounce_congr fun j => ((follows j).2.symm : (c.lines.get j).config = _)]⟩

/-- What acts on one line keeps the lines sound where its own line follows. -/
theorem LinesSound.ofActs {i : LineNo} {c d : Capture} (sound : LinesSound c ∧ HorizonSound c) (acts : ActsOnLine i c d)
    (own : (c.line i).Follows (d.line i)) : LinesSound d ∧ HorizonSound d := by
  refine LinesSound.ofFollows sound.2 (by rw [acts.1]) fun j => ?_
  by_cases h : j = i
  · exact h ▸ own
  · exact Line.Follows.ofShed ⟨sound.1 j, rfl⟩ (acts.2 j h)

/-- The masked lines reconfigured one after another stay sound. -/
theorem Capture.configureLines_sound {c : Capture} (sound : LinesSound c) (mask : BitVec 64) {cfg : LineConfig}
    (ranges : cfg.InRange) : LinesSound (c.configureLines mask cfg) :=
  List.foldlRecOn (motive := LinesSound) (maskedLines mask) (Capture.configureLine cfg) sound fun d kept i _ j => by
    by_cases h : j = i
    · subst h
      exact (Line.reconfigured_sound d.elapsed d.stamp (kept j) ranges).ofShed (d.configureLine_line cfg (kept j))
    · exact (kept j).ofShed ((ActsOnLine.configureLine i d cfg).2 j h)

/-- R35, R36: a snapshot clears counters and hands records over. -/
theorem Snapshot.takeLine_follows (clear : Bool) (p : Snapshot) (i j : LineNo) (sound : (p.capture.line j).Sound) :
    (p.capture.line j).Follows ((p.takeLine clear i).capture.line j) := by
  refine Line.Follows.ofShed ?_ (Capture.stage_line _ _ j)
  split
  · rw [Capture.line_setLine]
    split
    · rename_i h
      subst h
      exact ⟨sound.clearCounter, rfl⟩
    · exact ⟨sound, rfl⟩
  · exact ⟨sound, rfl⟩

theorem Snapshot.takeLine_horizon (clear : Bool) (p : Snapshot) (i : LineNo) :
    (p.takeLine clear i).capture.horizon = p.capture.horizon := by
  simp only [Snapshot.takeLine, Capture.stage_horizon]
  split <;> rfl

theorem Capture.snapshotCounters_sound {c : Capture} (sound : LinesSound c ∧ HorizonSound c) (mask : Byte) (clear : Bool) :
    LinesSound (c.snapshotCounters mask clear).capture ∧ HorizonSound (c.snapshotCounters mask clear).capture :=
  List.foldlRecOn (motive := fun p : Snapshot => LinesSound p.capture ∧ HorizonSound p.capture) _ (Snapshot.takeLine clear) sound
    fun p kept i _ => LinesSound.ofFollows kept.2 (p.takeLine_horizon clear i) fun j => p.takeLine_follows clear i j (kept.1 j)

/-- R54: SET_TIME re-stamps the candidates, and its TIME_STEP touches no line but its shed count. -/
theorem Capture.setTime_line (c : Capture) (value : Nat) (systemRing : RingNo) (i : LineNo) :
    SameButShedCount ((c.line i).restamp c.elapsed (c.onTimebase (Timebase.set value)).stamp)
      ((c.setTime value systemRing).line i) := by
  rw [Capture.setTime_eq, ← Capture.line_restamped]
  exact Capture.stage_line _ _ i

theorem Line.restamp_config (now : Nat) (stamp : Stamp) (l : Line) : (l.restamp now stamp).config = l.config := by
  unfold Line.restamp
  split <;> rfl

theorem Capture.setTime_horizon (c : Capture) (value : Nat) (systemRing : RingNo) :
    (c.setTime value systemRing).horizon = c.horizon := Capture.stage_horizon _ _

/-- R1, R19: every line is OFF, and the horizon is the release margin. -/
theorem Capture.powerOn_linesSound (levels : BitVec 48) (sync : Level) :
    LinesSound (Capture.powerOn levels sync) ∧ HorizonSound (Capture.powerOn levels sync) := by
  have config : ∀ i, ((Capture.powerOn levels sync).lines.get i).config = LineConfig.powerOn := fun i => by
    have h := Capture.powerOn_line levels sync i
    rw [Capture.line] at h
    rw [h]
    rfl
  refine ⟨fun i => ?_, ?_⟩
  · rw [Capture.powerOn_line]
    exact ⟨(by decide : LineConfig.powerOn.InRange), rfl, trivial, fun _ => rfl⟩
  · have all : largestDebounce (Capture.powerOn levels sync).lines = 0 := by
      simp only [largestDebounce, config]
      decide
    rw [HorizonSound, all]
    rfl

/-- Every change of the capture side keeps the lines sound and the horizon right. -/
theorem CaptureMove.linesSound {c d : Capture} (move : CaptureMove c d) (sound : LinesSound c ∧ HorizonSound c) :
    LinesSound d ∧ HorizonSound d := by
  have unmoved : ∀ {e : Capture}, e.lines = c.lines → e.horizon = c.horizon → LinesSound e ∧ HorizonSound e :=
    fun {e} lines horizon => LinesSound.ofFollows sound.2 horizon fun j => by
      rw [show e.line j = c.line j by rw [Capture.line, lines]; rfl]
      exact ⟨sound.1 j, rfl⟩
  cases move with
  | kept => exact sound
  | rawChange i raw => exact LinesSound.ofActs sound (ActsOnLine.rawChange i c raw) (Capture.rawChange_follows (sound.1 i) raw)
  | debounceExpiry i => exact LinesSound.ofActs sound (ActsOnLine.debounceExpiry i c) (Capture.debounceExpiry_follows (sound.1 i))
  | windowExpiry i => exact LinesSound.ofActs sound (ActsOnLine.windowExpiry i c) (Capture.windowExpiry_follows (sound.1 i))
  | quietExpiry i => exact LinesSound.ofActs sound (ActsOnLine.quietExpiry i c) (Capture.quietExpiry_follows (sound.1 i))
  | syncSample level => unfold Capture.syncSample; split <;> exact unmoved rfl rfl
  | endHold | lose | endHoldover | configureTimebase _ _ _ _ _ | configureGroup _ _ | disturb _ _ _ | release _ _ _ =>
    exact unmoved rfl rfl
  | configureLines mask cfg ranges => exact ⟨Capture.configureLines_sound sound.1 mask ranges, rfl⟩
  | setTime value systemRing _ _ =>
    refine LinesSound.ofFollows sound.2 (c.setTime_horizon value systemRing) fun j => ?_
    exact Line.Follows.ofShed ⟨Line.restamp_sound _ _ (sound.1 j), Line.restamp_config _ _ _⟩ (c.setTime_line value systemRing j)
  | snapshotCounters mask clear => exact Capture.snapshotCounters_sound sound mask clear
  | clearStatistics =>
    refine LinesSound.ofFollows sound.2 c.clearStatistics_horizon fun j => ?_
    rw [Capture.line_clearStatistics]
    exact ⟨sound.1 j, rfl⟩
  | powerOn levels sync => exact Capture.powerOn_linesSound levels sync

/-- Settles O54: what acts on one line leaves it sound with its configuration, and CONFIGURE_LINES recomputes the horizon. -/
theorem linesStaySound : Obligations.LinesStaySound := by
  intro s t sound run
  obtain move | ⟨-, -, rfl⟩ := step_capture run
  · exact move.linesSound sound
  · exact sound

end Sys2Proof.Machine
end

section
/-! Laws of the host side (Chapters 7, 9 and 10): what each shared operation makes of a sound session, and the ways in which one
command can leave the host side. -/

namespace Sys2Proof.Machine

-- One declaration at a time: the check of the whole text then stays within its memory.
set_option Elab.async false

/-! ### Ring indices (R115, R116, R119) -/

/-- The occupied count without its modulus. -/
theorem occupiedCount_eq {size producer consumer : Nat} (hp : producer < size) (hc : consumer < size) :
    occupiedCount size producer consumer = if consumer ≤ producer then producer - consumer else producer + size - consumer := by
  unfold occupiedCount
  split
  · rw [show producer + size - consumer = producer - consumer + size by omega, Nat.add_mod_right, Nat.mod_eq_of_lt (by omega)]
  · exact Nat.mod_eq_of_lt (by omega)

/-- The next index, modulo the size. -/
theorem nextIndex_eq {size i : Nat} (h : i < size) : (i + 1) % size = if i + 1 = size then 0 else i + 1 := by
  split
  · rename_i e
    rw [e, Nat.mod_self]
  · exact Nat.mod_eq_of_lt (by omega)

theorem HostRing.Sound.claimed {r : HostRing} {high : Nat} (sound : r.Sound high) : r.claimed.Sound high :=
  ⟨sound.1, sound.2.1, Nat.mod_lt _ (Nat.lt_of_lt_of_le (by decide) sound.1), sound.2.2.2⟩

/-- R115, R116: a claim takes one free slot. -/
theorem HostRing.freeSlots_claimed {r : HostRing} {high : Nat} (sound : r.Sound high) :
    r.claimed.freeSlots + 1 = r.freeSlots ∨ r.freeSlots = 0 := by
  obtain ⟨low, -, producer, consumer⟩ := sound
  have next := nextIndex_eq producer
  have bound : (r.producer + 1) % r.size < r.size := Nat.mod_lt _ (by omega)
  simp only [HostRing.freeSlots, HostRing.occupied, HostRing.claimed]
  rw [occupiedCount_eq bound consumer, occupiedCount_eq producer consumer, next]
  split <;> split <;> split <;> omega

/-- R119: a valid head write moves the consumer index forward, and frees slots. -/
theorem HostRing.freeSlots_validHead {r : HostRing} {high value : Nat} (sound : r.Sound high) (valid : r.validHead value = true) :
    ({ r with consumer := value } : HostRing).Sound high ∧ r.freeSlots ≤ ({ r with consumer := value } : HostRing).freeSlots := by
  obtain ⟨low, top, producer, consumer⟩ := sound
  simp only [HostRing.validHead, Bool.and_eq_true, decide_eq_true_eq] at valid
  obtain ⟨within, forward⟩ := valid
  refine ⟨⟨low, top, producer, within⟩, ?_⟩
  rw [HostRing.occupied, occupiedCount_eq within consumer, occupiedCount_eq producer consumer] at forward
  simp only [HostRing.freeSlots, HostRing.occupied]
  rw [occupiedCount_eq producer consumer, occupiedCount_eq producer within]
  split at forward <;> split at forward <;> split <;> split <;> omega

/-! ### A sound session, by the completions it owes -/

/-- A sound host side whose completion ring has a free slot for each of `owed` completions. -/
structure Attached.SoundOwing (owed : Nat) (h : Attached) : Prop where
  commandRing : 16 ≤ h.commandRing.size ∧ h.commandRing.size ≤ 4096 ∧ h.commandRing.producer < h.commandRing.size ∧
    h.commandRing.consumer < h.commandRing.size
  completionRing : h.completionRing.Sound 4096
  eventRings : ∀ n r, h.eventRing n = some r → r.Sound 65536
  vectors : ∀ v, (h.vector v).Sound
  faultVector : (h.vector 5).armed = true ∧ (h.vector 5).count = 0 ∧ (h.vector 5).timer = none
  room : owed ≤ h.completionRing.freeSlots
  replayRing : h.ReplayRingPresent

/-- R121: a session owes a completion for the archive command that runs, and one for the command read or executed. -/
theorem Attached.sound_iff {h : Attached} : h.Sound ↔ h.SoundOwing (h.archiveEngine.promised + h.command.owed) := by
  constructor
  · rintro ⟨commandRing, completionRing, eventRings, vectors, faultVector, room, replayRing⟩
    exact ⟨commandRing, completionRing, eventRings, vectors, faultVector, room, replayRing⟩
  · rintro ⟨commandRing, completionRing, eventRings, vectors, faultVector, room, replayRing⟩
    exact ⟨commandRing, completionRing, eventRings, vectors, faultVector, room, replayRing⟩

theorem Attached.SoundOwing.toSound {n : Nat} {h : Attached} (sound : h.SoundOwing n)
    (owed : h.archiveEngine.promised + h.command.owed = n) : h.Sound :=
  Attached.sound_iff.mpr (owed ▸ sound)

/-- The rings and vectors are what soundness looks at, and the archive engine for its ring. -/
theorem Attached.SoundOwing.ofEq {m n : Nat} {h g : Attached} (sound : h.SoundOwing n) (fewer : m ≤ n)
    (commandRing : g.commandRing = h.commandRing) (completionRing : g.completionRing = h.completionRing)
    (eventRings : g.eventRings = h.eventRings) (vectors : g.vectors = h.vectors) (replayRing : g.ReplayRingPresent) :
    g.SoundOwing m where
  commandRing := commandRing ▸ sound.commandRing
  completionRing := completionRing ▸ sound.completionRing
  eventRings := fun k r hr => sound.eventRings k r (by rw [Attached.eventRing, ← eventRings]; exact hr)
  vectors := fun v => by rw [Attached.vector, vectors]; exact sound.vectors v
  faultVector := by rw [Attached.vector, vectors]; exact sound.faultVector
  room := completionRing ▸ fewer.trans sound.room
  replayRing := replayRing

theorem Attached.SoundOwing.mono {m n : Nat} {h : Attached} (sound : h.SoundOwing n) (fewer : m ≤ n) : h.SoundOwing m :=
  sound.ofEq fewer rfl rfl rfl rfl sound.replayRing

theorem Attached.SoundOwing.makeDue {n : Nat} {h : Attached} (sound : h.SoundOwing n) (source : WriteSource) (address : BitVec 64)
    (data : List Byte) (now : Nat) : (h.makeDue source address data now).SoundOwing n :=
  sound.ofEq le_rfl rfl rfl rfl rfl sound.replayRing

theorem Attached.SoundOwing.dueTaken {n : Nat} {h : Attached} (sound : h.SoundOwing n) (rest : List DueWrite) :
    { h with due := rest }.SoundOwing n :=
  sound.ofEq le_rfl rfl rfl rfl rfl sound.replayRing

theorem Attached.SoundOwing.setCommand {n : Nat} {h : Attached} (sound : h.SoundOwing n) (command : CommandEngine) :
    { h with command := command }.SoundOwing n :=
  sound.ofEq le_rfl rfl rfl rfl rfl sound.replayRing

theorem Attached.SoundOwing.setArchive {n : Nat} {h : Attached} (sound : h.SoundOwing n) (engine : ArchiveEngine)
    (replayRing : { h with archiveEngine := engine }.ReplayRingPresent) : { h with archiveEngine := engine }.SoundOwing n :=
  sound.ofEq le_rfl rfl rfl rfl rfl replayRing

/-- R123: a completion handed over takes a slot that was owed. -/
theorem Attached.SoundOwing.handCompletion {n : Nat} {h : Attached} (sound : h.SoundOwing (n + 1)) (c : Completion) (now : Nat) :
    (h.handCompletion c now).SoundOwing n where
  commandRing := sound.commandRing
  completionRing := sound.completionRing.claimed
  eventRings := sound.eventRings
  vectors := sound.vectors
  faultVector := sound.faultVector
  room := by
    have owed := sound.room
    have claimed := HostRing.freeSlots_claimed sound.completionRing
    rw [Attached.handCompletion_completionRing, HostRing.claim_eq]
    omega
  replayRing := sound.replayRing

theorem Attached.eventRing_set (h : Attached) (n m : RingNo) (r : Option HostRing) :
    Attached.eventRing { h with eventRings := h.eventRings.set n.val r } m = if m = n then r else h.eventRing m := by
  simp only [Attached.eventRing, Vector.get_eq_getElem, Vector.getElem_set, Fin.ext_iff, eq_comm]

/-- An event ring replaced by a sound one. -/
theorem Attached.SoundOwing.setEventRing {k : Nat} {h : Attached} (sound : h.SoundOwing k) (n : RingNo) {r : HostRing}
    (ring : r.Sound 65536) : { h with eventRings := h.eventRings.set n.val (some r) }.SoundOwing k where
  commandRing := sound.commandRing
  completionRing := sound.completionRing
  eventRings := fun m x hx => by
    rw [Attached.eventRing_set] at hx
    split at hx
    · exact Option.some.inj hx ▸ ring
    · exact sound.eventRings m x hx
  vectors := sound.vectors
  faultVector := sound.faultVector
  room := sound.room
  replayRing := by
    have present := sound.replayRing
    unfold Attached.ReplayRingPresent at *
    cases engine : h.archiveEngine with
    | idle => trivial
    | verifying c crc => trivial
    | replaying c ring held =>
      rw [engine] at present
      have looked : (Attached.eventRing { h with eventRings := h.eventRings.set n.val (some r) } ring).isSome = true := by
        rw [Attached.eventRing_set]
        split
        · rfl
        · exact present
      exact looked

/-- R124: a record that claims a slot of its ring. -/
theorem Attached.SoundOwing.claimSlot {k : Nat} {h : Attached} (sound : h.SoundOwing k) (n : RingNo) (record : Record32)
    (isReplay failed : Bool) (now : Nat) : (h.claimSlot n record isReplay failed now).SoundOwing k := by
  unfold Attached.claimSlot
  split
  · exact sound
  · rename_i r present
    exact (sound.setEventRing n (HostRing.Sound.claimed (sound.eventRings n r present))).makeDue _ _ _ _

/-- A vector replaced by a sound one; vector 5 stays ARMED and silent (R173). -/
theorem Attached.SoundOwing.setVector {k : Nat} {h : Attached} (sound : h.SoundOwing k) (v : VectorNo) {x : NotifyVector}
    (vector : x.Sound) (silent : v = 5 → x.armed = true ∧ x.count = 0 ∧ x.timer = none) : (h.setVector v x).SoundOwing k where
  commandRing := sound.commandRing
  completionRing := sound.completionRing
  eventRings := sound.eventRings
  vectors := fun w => by
    rw [Attached.vector_setVector]
    split
    · exact vector
    · exact sound.vectors w
  faultVector := by
    rw [Attached.vector_setVector]
    split
    · rename_i e
      exact silent e.symm
    · exact sound.faultVector
  room := sound.room
  replayRing := sound.replayRing

/-- R171: a vector other than 5 sends. -/
theorem Attached.SoundOwing.messageSent {k : Nat} {h : Attached} (sound : h.SoundOwing k) {v : VectorNo} (other : v ≠ 5)
    (now : Nat) : (h.messageSent v now).SoundOwing k := by
  obtain ⟨-, threshold, delay⟩ := sound.vectors v
  refine Attached.SoundOwing.makeDue (sound.setVector v ?_ fun e => absurd e other) _ _ _ _
  exact ⟨fun running => Bool.noConfusion running, threshold, delay⟩

/-- R169: a posting to a vector other than 5. -/
theorem Attached.SoundOwing.post {k : Nat} {h : Attached} (sound : h.SoundOwing k) {v : VectorNo} (other : v ≠ 5) (now : Nat) :
    (h.post v now).SoundOwing k := by
  rw [Attached.post_eq]
  split
  · exact sound.messageSent other now
  · obtain ⟨timer, threshold, delay⟩ := sound.vectors v
    refine sound.setVector v ⟨fun running => ?_, threshold, delay⟩ fun e => absurd e other
    simp only at running
    split at running
    · rename_i first
      exact ⟨first.1, Nat.le_add_left _ _⟩
    · exact ⟨(timer running).1, Nat.le_add_left _ _⟩

/-- R172: an arming of a vector other than 5. -/
theorem Attached.SoundOwing.arm {k : Nat} {h : Attached} (sound : h.SoundOwing k) {v : VectorNo} (other : v ≠ 5) (now : Nat) :
    (h.arm v now).SoundOwing k := by
  rw [Attached.arm_eq]
  split
  · exact sound.messageSent other now
  · obtain ⟨timer, threshold, delay⟩ := sound.vectors v
    refine sound.setVector v ⟨fun running => ⟨rfl, ?_⟩, threshold, delay⟩ fun e => absurd e other
    simp only at running
    split at running
    · rename_i waits
      exact Nat.one_le_iff_ne_zero.mpr waits.1
    · exact (timer running).2

theorem ringVector_ne_five (n : RingNo) : ringVector n ≠ 5 := by
  intro e
  have := congrArg Fin.val e
  simp only [ringVector] at this
  omega

/-! ### The operations of the command engine and the archive engine -/

/-- A session whose command has been read and not yet answered (R122). -/
structure Attached.Owes (h : Attached) : Prop where
  idle : h.command = .idle
  sound : h.SoundOwing (h.archiveEngine.promised + 1)

/-- R122: the read in flight is done. -/
theorem Attached.Sound.readDone {h : Attached} (sound : h.Sound) (reading : h.command.owed = 1) : h.readDone.Owes := by
  have owing := Attached.sound_iff.mp sound
  rw [reading] at owing
  refine ⟨rfl, ⟨?_, owing.completionRing, owing.eventRings, owing.vectors, owing.faultVector, owing.room, owing.replayRing⟩⟩
  obtain ⟨low, high, producer, consumer⟩ := owing.commandRing
  exact ⟨low, high, producer, Nat.mod_lt _ (Nat.lt_of_lt_of_le (by decide) low)⟩

theorem ReadInFlight.owed {s : State} {read : Nat} {h : Attached} (r : ReadInFlight s read h) : h.command.owed = 1 := by
  obtain ⟨-, address, dueAt, reading, -⟩ := r
  rw [reading]
  rfl

/-- R133: a completion answers the command. -/
theorem Attached.Owes.handCompletion {h : Attached} (owes : h.Owes) (c : Completion) (now : Nat) : (h.handCompletion c now).Sound := by
  rw [Attached.sound_iff, Attached.handCompletion_archiveEngine, Attached.handCompletion_command, owes.idle]
  exact owes.sound.handCompletion c now

/-- A command that executes still owes its completion (R142, R146). -/
theorem Attached.Owes.executes {h : Attached} (owes : h.Owes) (kind : Byte) (tag : BitVec 16) (address : BitVec 64)
    (data : List Byte) (now : Nat) :
    ({ h with command := .executing kind tag }.makeDue .buffer address data now).Sound :=
  Attached.sound_iff.mpr ((owes.sound.setCommand (.executing kind tag)).makeDue _ _ _ _)

/-- R100: the take of a REPLAY. -/
theorem Attached.Owes.takeReplay {h : Attached} (owes : h.Owes) (a : Archive) (tag : BitVec 16) (first count : Nat) (ring : RingNo)
    (now : Nat) : (h.takeReplay a tag first count ring now).Sound := by
  unfold Attached.takeReplay
  split
  · exact owes.handCompletion _ now
  · rename_i present
    cases engine : h.archiveEngine with
    | replaying _ _ _ => exact owes.handCompletion _ now
    | verifying _ _ => exact owes.handCompletion _ now
    | idle =>
      simp only
      split
      · exact owes.handCompletion _ now
      · exact owes.handCompletion _ now
      · rename_i rangeStart rangeEnd _
        have owing := owes.sound
        rw [engine] at owing
        have taken := owing.setArchive (.replaying (.fresh tag first rangeStart rangeEnd now) ring none)
          (Option.isSome_iff_ne_none.mpr present)
        refine taken.toSound ?_
        rw [show CommandEngine.owed _ = _ from congrArg CommandEngine.owed owes.idle]
        rfl

/-- R100: the take of a VERIFY_ARCHIVE. -/
theorem Attached.Owes.takeVerify {h : Attached} (owes : h.Owes) (a : Archive) (tag : BitVec 16) (first count now : Nat) :
    (h.takeVerify a tag first count now).Sound := by
  unfold Attached.takeVerify
  cases engine : h.archiveEngine with
  | replaying _ _ _ => exact owes.handCompletion _ now
  | verifying _ _ => exact owes.handCompletion _ now
  | idle =>
    simp only
    split
    · exact owes.handCompletion _ now
    · exact owes.handCompletion _ now
    · rename_i rangeStart rangeEnd _
      have owing := owes.sound
      rw [engine] at owing
      have taken := owing.setArchive (.verifying (.fresh tag first rangeStart rangeEnd now) crc32Initial) trivial
      refine taken.toSound ?_
      rw [show CommandEngine.owed _ = _ from congrArg CommandEngine.owed owes.idle]
      rfl

/-- R105, R108: the running archive command ends with the completion promised for it. -/
theorem Attached.SoundOwing.endArchiveCommand {k : Nat} {h : Attached} (sound : h.SoundOwing (k + 1)) (c : Completion) (now : Nat) :
    (h.endArchiveCommand c now).SoundOwing k :=
  (sound.setArchive .idle trivial).handCompletion c now

/-- An archive command that an ABORT ends was promised its completion. -/
theorem ArchiveEngine.promised_of_aborted {engine : ArchiveEngine} {target : BitVec 16} {c : Completion}
    (aborted : engine.abortedCompletion target = some c) : engine.promised = 1 := by
  cases engine with
  | idle => cases aborted
  | replaying _ _ _ => rfl
  | verifying _ _ => rfl

/-- R110: an ABORT hands over one completion, or two of which one was promised. -/
theorem Attached.Owes.abort {h : Attached} (owes : h.Owes) (tag target : BitVec 16) (now : Nat) : (h.abort tag target now).Sound := by
  unfold Attached.abort
  split
  · rename_i c aborted
    have owing := owes.sound
    rw [ArchiveEngine.promised_of_aborted aborted] at owing
    have ended := (owing.endArchiveCommand c now).handCompletion (.plain 0x0B tag .success) now
    rw [Attached.sound_iff]
    have idle : ((h.endArchiveCommand c now).handCompletion (.plain 0x0B tag .success) now).command = .idle := owes.idle
    rw [idle]
    exact ended
  · exact owes.handCompletion _ now

/-- R150, R151: a SET_NOTIFY in range changes neither arming nor count nor timer. -/
theorem Attached.Owes.setNotify {h : Attached} (owes : h.Owes) (tag : BitVec 16) (v : VectorNo) {threshold delay : Nat} (now : Nat)
    (thresholdRange : 1 ≤ threshold ∧ threshold ≤ 255) (delayRange : delay ≤ 65535) :
    (h.setNotify tag v threshold delay now).Sound := by
  unfold Attached.setNotify
  split
  · have vector := owes.sound.vectors v
    have set := owes.sound.setVector v (x := { h.vector v with threshold := threshold, delay := delay })
      ⟨vector.1, thresholdRange.1, thresholdRange.2, delayRange⟩ fun e => e ▸ owes.sound.faultVector
    exact Attached.Owes.handCompletion (h := h.setVector v { h.vector v with threshold := threshold, delay := delay })
      ⟨owes.idle, set⟩ _ now
  · exact owes.handCompletion _ now

/-- Once its archive command has ended, a session owes the command's completion alone. -/
theorem promised_add_owed (e : CommandEngine) : ArchiveEngine.idle.promised + e.owed + 1 ≤ 1 + e.owed := by
  simp only [ArchiveEngine.promised]
  omega

section
variable {h : Attached} (sound : h.Sound)
include sound

/-- R102, R104: a read of a REPLAY. -/
theorem Attached.Sound.replayRead (a : Archive) (now : Nat) : (h.replayRead a now).Sound := by
  unfold Attached.replayRead
  split
  · rename_i c ring engine
    have owing := Attached.sound_iff.mp sound
    rw [engine] at owing
    split
    · refine Attached.sound_iff.mpr (owing.setArchive _ ?_)
      have present := owing.replayRing
      rwa [Attached.ReplayRingPresent, engine] at present
    · exact Attached.sound_iff.mpr (Attached.SoundOwing.endArchiveCommand (owing.mono (promised_add_owed _)) _ now)
  all_goals exact sound

/-- R106, R104: a read of a VERIFY_ARCHIVE. -/
theorem Attached.Sound.verifyRead (a : Archive) (now : Nat) : (h.verifyRead a now).Sound := by
  unfold Attached.verifyRead
  split
  · rename_i c crc engine
    have owing := Attached.sound_iff.mp sound
    rw [engine] at owing
    have ended : ∀ x, (h.endArchiveCommand x now).Sound := fun x =>
      Attached.sound_iff.mpr (Attached.SoundOwing.endArchiveCommand (owing.mono (promised_add_owed _)) x now)
    split
    · simp only
      split
      · exact ended _
      · exact Attached.sound_iff.mpr (owing.setArchive _ trivial)
    · exact ended _
  all_goals exact sound

/-- R125: a copy granted a slot. -/
theorem Attached.Sound.grantCopy {x : ArchiveContext} {ring : RingNo} {copy : HeldCopy}
    (engine : h.archiveEngine = .replaying x ring (some copy)) (c : ArchiveContext) (record : Record32) (failed : Bool) (now : Nat) :
    ((h.claimSlot ring record true failed now).replayAdvance c ring now).Sound := by
  have owing := Attached.sound_iff.mp sound
  have claimed := owing.claimSlot ring record true failed now
  have present := claimed.replayRing
  have unchanged : (h.claimSlot ring record true failed now).command = h.command ∧
      (h.claimSlot ring record true failed now).archiveEngine = h.archiveEngine := by
    unfold Attached.claimSlot
    split <;> exact ⟨rfl, rfl⟩
  obtain ⟨command, archive⟩ := unchanged
  rw [engine] at owing claimed
  rw [Attached.ReplayRingPresent, archive, engine] at present
  unfold Attached.replayAdvance
  split
  · refine Attached.sound_iff.mpr (Attached.SoundOwing.endArchiveCommand (claimed.mono ?_) _ now)
    simp [Attached.endArchiveCommand, ArchiveEngine.promised, command]
  · refine (claimed.setArchive (.replaying c ring none) present).toSound ?_
    rw [show CommandEngine.owed _ = _ from congrArg CommandEngine.owed command]
    rfl

/-- R126, R142, R169: what follows an issue. -/
theorem Attached.Sound.afterIssue (rest : List DueWrite) (source : WriteSource) (now : Nat) :
    ({ h with due := rest }.afterIssue source now).Sound := by
  have owing := (Attached.sound_iff.mp sound).dueTaken rest
  have posted : ∀ v : VectorNo, v ≠ 5 → (Attached.post { h with due := rest } v now).Sound := fun v other => by
    have after := owing.post other now
    have unchanged : (Attached.post { h with due := rest } v now).archiveEngine = h.archiveEngine ∧
        (Attached.post { h with due := rest } v now).command = h.command := by
      rw [Attached.post_eq]
      split <;> exact ⟨rfl, rfl⟩
    rwa [Attached.sound_iff, unchanged.1, unchanged.2]
  cases source with
  | completion => exact posted 0 (by decide)
  | record n => exact posted (ringVector n) (ringVector_ne_five n)
  | message v => exact Attached.sound_iff.mpr owing
  | buffer =>
    simp only [Attached.afterIssue]
    split
    · rename_i kind tag executing
      have owed : h.command.owed = 1 := by rw [executing]; rfl
      rw [owed] at owing
      exact Attached.sound_iff.mpr ((owing.setCommand .idle).handCompletion _ now)
    all_goals exact Attached.sound_iff.mpr owing

/-- R121: a take leaves a slot for the completion of its command. -/
theorem Attached.Sound.take (free : h.canTakeCommand = true) (address : BitVec 64) (dueAt number : Nat) :
    { h with command := .reading address dueAt number }.Sound := by
  have owing := Attached.sound_iff.mp sound
  simp only [Attached.canTakeCommand, Bool.and_eq_true, decide_eq_true_eq] at free
  exact ⟨owing.commandRing, owing.completionRing, owing.eventRings, owing.vectors, owing.faultVector, free.2, owing.replayRing⟩

/-- R118: a producer index within the size. -/
theorem Attached.Sound.setTail {value : Nat} (within : value < h.commandRing.size) :
    { h with commandRing := { h.commandRing with producer := value } }.Sound := by
  obtain ⟨⟨low, high, -, consumer⟩, rest⟩ := sound
  exact ⟨⟨low, high, within, consumer⟩, rest⟩

/-- R119, R172: a valid head write of the completion ring. -/
theorem Attached.Sound.setCompletionHead {value : Nat} (valid : h.completionRing.validHead value = true) (now : Nat) :
    (Attached.arm { h with completionRing := { h.completionRing with consumer := value } } 0 now).Sound := by
  have owing := Attached.sound_iff.mp sound
  obtain ⟨ring, more⟩ := HostRing.freeSlots_validHead owing.completionRing valid
  have moved : { h with completionRing := { h.completionRing with consumer := value } }.SoundOwing
      (h.archiveEngine.promised + h.command.owed) :=
    ⟨owing.commandRing, ring, owing.eventRings, owing.vectors, owing.faultVector, owing.room.trans more, owing.replayRing⟩
  have armed := moved.arm (v := 0) (by decide) now
  have unchanged : ∀ g : Attached, (g.arm 0 now).archiveEngine = g.archiveEngine ∧ (g.arm 0 now).command = g.command := fun g => by
    rw [Attached.arm_eq]
    split <;> exact ⟨rfl, rfl⟩
  rwa [Attached.sound_iff, (unchanged _).1, (unchanged _).2]

end

/-- An arming leaves the two engines. -/
theorem Attached.arm_engines (h : Attached) (v : VectorNo) (now : Nat) :
    (h.arm v now).archiveEngine = h.archiveEngine ∧ (h.arm v now).command = h.command := by
  rw [Attached.arm_eq]
  split <;> exact ⟨rfl, rfl⟩

end Sys2Proof.Machine
end

section
/-! Everything that one command, and one step, can do outside the capture side, said once; and the laws of the session that follow
from it (Chapters 7 and 9). -/

namespace Sys2Proof.Machine

-- One declaration at a time: the check of the whole text then stays within its memory.
set_option Elab.async false

/-- The number of the read that the command engine has in flight. -/
def CommandEngine.readNumber : CommandEngine → Option Nat
  | .reading _ _ number => some number
  | .idle | .executing _ _ => none

theorem State.readInFlight_attached {s : State} {h : Attached} (hs : s.host.session = .attached h) :
    s.readInFlight = h.command.readNumber := by
  simp only [State.readInFlight, hs]
  cases h.command <;> rfl

/-- The ways in which one command can leave the host side, the number of reads, the queue and the link: the last two never change
here. -/
inductive HostMove (s : State) : State → Prop
  | kept (c : Capture) : HostMove s { s with capture := c }
  | session (c : Capture) {h g : Attached} (attached : s.host.session = .attached h) (sound : h.Sound → g.Sound)
      (reads : g.command.readNumber = h.command.readNumber ∨ g.command.readNumber = none) :
      HostMove s { s with capture := c, host := { s.host with session := .attached g } }
  | takes {h : Attached} (address : BitVec 64) (dueAt : Nat) (attached : s.host.session = .attached h) (idle : h.command = .idle)
      (sound : h.Sound → { h with command := .reading address dueAt s.reads }.Sound) :
      HostMove s { s with
        host := { s.host with session := .attached { h with command := .reading address dueAt s.reads } }, reads := s.reads + 1 }
  | attaches (address : BitVec 64) (dueAt : Nat) (detached : s.host.session = .detached) :
      HostMove s { s with
        host := { s.host with
          faultCode := .none, initFieldIndex := 0, faultNotifyFailed := false, session := .attaching address dueAt s.reads }
        reads := s.reads + 1 }
  | begins {address : BitVec 64} {dueAt number : Nat} {g : Attached} (attaching : s.host.session = .attaching address dueAt number)
      (idle : g.command = .idle) (sound : g.Sound) : HostMove s { s with host := { s.host with session := .attached g } }
  | faults {code : FaultCode} (isFault : code ≠ .none) (index : BitVec 6) (message : Option DueWrite) :
      HostMove s { s with
        host := { s.host with faultCode := code, initFieldIndex := index, session := .faulted message } }
  | silenced {message : Option DueWrite} (faulted : s.host.session = .faulted message) (failed : Bool) :
      HostMove s { s with host := { s.host with faultNotifyFailed := failed, session := .faulted none } }
  | ends (c : Capture) {host : HostSide} (detached : host.session = .detached) : HostMove s { s with capture := c, host := host }

/-! ### Host commands -/

/-- What a host command that has passed validation makes of the state `s` with the session `h`, whose command it is: it owes no
other completion than before, and reads nothing. -/
def Answered (s : State) (h : Attached) (t : State) : Prop :=
  ∃ (c : Capture) (g : Attached), t = { s.withHost g with capture := c } ∧ (h.Owes → g.Sound) ∧
    (h.command = .idle → g.command.readNumber = none)

theorem Answered.onHost {s : State} {h : Attached} (c : Capture) (f : Attached → Attached) (sound : h.Owes → (f h).Sound)
    (silent : h.command = .idle → (f h).command.readNumber = none) :
    Answered s h (State.onHost f { s.withHost h with capture := c }) :=
  ⟨c, f h, rfl, sound, silent⟩

theorem Answered.handCompletion {s : State} {h : Attached} (c : Capture) (x : Completion) :
    Answered s h (State.handCompletion x { s.withHost h with capture := c }) :=
  .onHost c _ (fun owes => owes.handCompletion x _) fun idle => by rw [Attached.handCompletion_command, idle]; rfl

theorem Answered.writeBuffer {s : State} {h : Attached} (c : Capture) (kind : Byte) (tag : BitVec 16) (address : BitVec 64)
    (data : List Byte) : Answered s h (State.writeBuffer kind tag address data { s.withHost h with capture := c }) :=
  .onHost c _ (fun owes => owes.executes kind tag address data _) fun _ => rfl

theorem Answered.configureGroup (s : State) (h : Attached) (tag : BitVec 16) (group : GroupNo) (g : Group) :
    Answered s h (State.configureGroup tag group g (s.withHost h)) := by
  unfold State.configureGroup
  split
  · exact .handCompletion _ _
  · exact .handCompletion s.capture _

theorem Answered.setTime (s : State) (h : Attached) (tag : BitVec 16) (value : Nat) :
    Answered s h (State.setTime tag value (s.withHost h)) := by
  simp only [State.setTime, State.withHost_session]
  split
  · exact .handCompletion s.capture _
  · split
    · exact .handCompletion s.capture _
    · exact .handCompletion _ _

theorem Answered.readStatistics (s : State) (h : Attached) (tag : BitVec 16) (address : BitVec 64) (clear : Bool) :
    Answered s h (State.readStatistics tag address clear (s.withHost h)) := by
  cases clear with
  | true => exact .writeBuffer s.capture.clearStatistics _ _ _ _
  | false => exact .writeBuffer s.capture _ _ _ _

@[simp] theorem Attached.takeReplay_command (h : Attached) (a : Archive) (tag : BitVec 16) (first count : Nat) (ring : RingNo)
    (now : Nat) : (h.takeReplay a tag first count ring now).command = h.command := by
  unfold Attached.takeReplay
  split
  · rfl
  · split
    · rfl
    · rfl
    · split <;> rfl

@[simp] theorem Attached.takeVerify_command (h : Attached) (a : Archive) (tag : BitVec 16) (first count now : Nat) :
    (h.takeVerify a tag first count now).command = h.command := by
  unfold Attached.takeVerify
  split
  · rfl
  · rfl
  · split <;> rfl

@[simp] theorem Attached.abort_command (h : Attached) (tag target : BitVec 16) (now : Nat) :
    (h.abort tag target now).command = h.command := by
  unfold Attached.abort
  split <;> rfl

@[simp] theorem Attached.setNotify_command (h : Attached) (tag : BitVec 16) (v : VectorNo) (threshold delay now : Nat) :
    (h.setNotify tag v threshold delay now).command = h.command := by
  unfold Attached.setNotify
  split <;> rfl

/-- A change of the session that leaves the command engine as it is. -/
theorem Answered.onEngines {s : State} {h : Attached} (f : Attached → Attached) (sound : h.Owes → (f h).Sound)
    (command : (f h).command = h.command) : Answered s h (State.onHost f (s.withHost h)) :=
  .onHost s.capture f sound fun idle => by rw [command, idle]; rfl

/-- The threshold of an accepted SET_NOTIFY is in range. -/
theorem notifyFailure_threshold {tag : BitVec 16} {vector threshold : Byte} {delay : BitVec 16}
    (h : notifyFailure tag vector threshold delay = none) : 1 ≤ threshold.toNat ∧ threshold.toNat ≤ 255 := by
  have range := firstFailure_eq_none h (3, inRange 1 255 threshold.toNat) (by simp)
  simpa only [inRange, Bool.and_eq_true, decide_eq_true_eq] using range

/-- A host command leaves the state as it is, or answers. -/
theorem HostMove.ofRun {s : State} (read : Nat) (kind : Byte) (tag : BitVec 16) (failure : Option Nat) (body : State → State)
    (answers : failure = none → ∀ h, Answered s h (body (s.withHost h))) : HostMove s (s.runCommand read kind tag failure body) := by
  have session : ∀ {h : Attached} {t : State}, ReadInFlight s read h → Answered s h.readDone t → HostMove s t := by
    rintro h t r ⟨c, g, rfl, sound, silent⟩
    exact .session c r.1 (fun before => sound (before.readDone r.owed)) (.inr (silent rfl))
  by_cases r : ∃ h, ReadInFlight s read h
  · obtain ⟨h, r⟩ := r
    simp only [State.runCommand, State.commandRead_inFlight r]
    cases failure with
    | some index => exact session r (.handCompletion s.capture _)
    | none => exact session r (answers rfl _)
  · rw [State.runCommand_discarded fun h hr => r ⟨h, hr⟩]
    exact .kept s.capture

/-! ### The session controller -/

/-- A ring at attachment is sound, where its size is in range. -/
theorem HostRing.fresh_sound (base : BitVec 64) {size high : Nat} (low : 16 ≤ size) (top : size ≤ high) :
    (HostRing.fresh base size).Sound high := by
  have positive : 0 < size := by omega
  exact ⟨low, top, positive, positive⟩

/-- A size that passes its test is in range. -/
theorem isRingSize_range {low high size : Nat} (h : isRingSize low high size = true) : low ≤ size ∧ size ≤ high := by
  simp only [isRingSize, inRange, Bool.and_eq_true, decide_eq_true_eq] at h
  exact h.1

/-- Every test of a block that passes validation holds. -/
theorem blockFailure_eq_none {b : InitBlock} (valid : blockFailure b = none) :
    isRingSize 16 4096 b.commandSize.toNat = true ∧ isRingSize 16 4096 b.completionSize.toNat = true ∧
    (∀ n, ∀ test ∈ eventRingTests b n, test.2 = true) ∧ (∀ v, ∀ test ∈ vectorTests b v, test.2 = true) := by
  have all := firstFailure_eq_none valid
  simp only [List.forall_mem_append] at all
  obtain ⟨⟨⟨⟨⟨⟨⟨⟨⟨⟨⟨front, e0⟩, e1⟩, e2⟩, e3⟩, -⟩, v0⟩, v1⟩, v2⟩, v3⟩, v4⟩, v5⟩ := all
  refine ⟨front (2, isRingSize 16 4096 b.commandSize.toNat) (by simp),
    front (4, isRingSize 16 4096 b.completionSize.toNat) (by simp), fun n => ?_, fun v => ?_⟩
  · match n with
    | 0 => exact e0
    | 1 => exact e1
    | 2 => exact e2
    | 3 => exact e3
  · match v with
    | 0 => exact v0
    | 1 => exact v1
    | 2 => exact v2
    | 3 => exact v3
    | 4 => exact v4
    | 5 => exact v5

@[simp] theorem Attached.ofBlock_vector (b : InitBlock) (v : VectorNo) :
    (Attached.ofBlock b).vector v = .fresh (b.vectors.get v) := by
  simp [Attached.vector, Attached.ofBlock, Vector.get_eq_getElem]

theorem Attached.ofBlock_eventRing (b : InitBlock) (n : RingNo) : (Attached.ofBlock b).eventRing n =
    if (b.eventRings.get n).size = 0 then none
    else some (.fresh (b.eventRings.get n).base (b.eventRings.get n).size.toNat) := by
  simp [Attached.eventRing, Attached.ofBlock, Vector.get_eq_getElem]

/-- R114, R159: a valid block sets up a sound session. -/
theorem Attached.ofBlock_sound {b : InitBlock} (valid : blockFailure b = none) : (Attached.ofBlock b).SoundOwing 1 := by
  obtain ⟨command, completion, eventRings, vectors⟩ := blockFailure_eq_none valid
  obtain ⟨commandLow, commandHigh⟩ := isRingSize_range command
  obtain ⟨low, high⟩ := isRingSize_range completion
  have positive : 0 < b.commandSize.toNat := by omega
  refine ⟨⟨commandLow, commandHigh, positive, positive⟩, HostRing.fresh_sound _ low high, fun n r hr => ?_, fun v => ?_, ?_, ?_,
    trivial⟩
  · rw [Attached.ofBlock_eventRing] at hr
    split at hr
    · cases hr
    · rename_i present
      cases hr
      have test := eventRings n _ (List.mem_cons_of_mem _ List.mem_cons_self)
      simp only [Bool.or_eq_true, decide_eq_true_eq] at test
      obtain ⟨low, high⟩ := isRingSize_range (test.resolve_left present)
      exact HostRing.fresh_sound _ low high
  · rw [Attached.ofBlock_vector]
    have test := vectors v (16 + 4 * v.val, inRange 1 255 (b.vectors.get v).threshold.toNat) (by simp [vectorTests])
    simp only [inRange, Bool.and_eq_true, decide_eq_true_eq] at test
    exact ⟨fun running => (by cases running), test.1, test.2, Nat.le_of_lt_succ (b.vectors.get v).delay.isLt⟩
  · rw [Attached.ofBlock_vector]
    exact ⟨rfl, rfl, rfl⟩
  · show 1 ≤ b.completionSize.toNat - 1 - occupiedCount b.completionSize.toNat 0 0
    rw [occupiedCount_eq (by omega) (by omega), if_pos le_rfl]
    omega

/-- R158: an ATTACH. -/
theorem HostMove.attach (s : State) : HostMove s s.attach := by
  unfold State.attach
  split
  · rename_i detached
    exact .attaches _ _ detached
  all_goals exact .kept s.capture

/-- R162: a fault ends ATTACHING or ATTACHED, and none arises elsewhere. -/
theorem HostMove.raiseFault (s : State) {code : FaultCode} (isFault : code ≠ .none) : HostMove s (s.raiseFault code) := by
  unfold State.raiseFault
  split
  · exact .faults isFault s.host.initFieldIndex _
  · exact .faults isFault s.host.initFieldIndex none
  all_goals exact .kept s.capture

/-- R159: the initialisation block. -/
theorem HostMove.blockRead (s : State) (read : Nat) (b : InitBlock) : HostMove s (s.blockRead read b) := by
  unfold State.blockRead
  split
  · rename_i inFlight
    unfold State.blockReadInFlight at inFlight
    split at inFlight
    · rename_i address dueAt number attaching
      split
      · simp only [State.initInvalid, State.raiseFault_attaching s _ attaching]
        exact .faults (by decide) _ none
      · rename_i valid
        exact .begins attaching rfl (((Attached.ofBlock_sound valid).handCompletion _ _).toSound rfl)
    all_goals cases inFlight
  · exact .kept s.capture

/-! ### The ATTACHED session -/

/-- A change of the session that keeps it sound and leaves the command engine as it is. -/
theorem HostMove.onEngines (s : State) (f : Attached → Attached) (sound : ∀ h, s.host.session = .attached h → h.Sound → (f h).Sound)
    (command : ∀ h, (f h).command = h.command) : HostMove s (s.onHost f) := by
  obtain ⟨h, attached, e⟩ | ⟨-, e⟩ := s.onHost_cases f
  · rw [e]
    exact .session s.capture attached (sound h attached) (.inl (by rw [command]))
  · rw [e]
    exact .kept s.capture

@[simp] theorem Attached.replayRead_command (h : Attached) (a : Archive) (now : Nat) :
    (h.replayRead a now).command = h.command := by
  unfold Attached.replayRead
  split
  · split <;> rfl
  all_goals rfl

@[simp] theorem Attached.verifyRead_command (h : Attached) (a : Archive) (now : Nat) :
    (h.verifyRead a now).command = h.command := by
  unfold Attached.verifyRead
  split
  · split
    · simp only
      split <;> rfl
    · rfl
  all_goals rfl

theorem Attached.claimSlot_engines (h : Attached) (n : RingNo) (record : Record32) (isReplay failed : Bool) (now : Nat) :
    (h.claimSlot n record isReplay failed now).archiveEngine = h.archiveEngine ∧
    (h.claimSlot n record isReplay failed now).command = h.command := by
  unfold Attached.claimSlot
  split <;> exact ⟨rfl, rfl⟩

theorem Attached.replayAdvance_command (h : Attached) (c : ArchiveContext) (ring : RingNo) (now : Nat) :
    (h.replayAdvance c ring now).command = h.command := by
  unfold Attached.replayAdvance
  split <;> rfl

/-- R125: the grant of a held copy. -/
theorem HostMove.replayGrant (s : State) : HostMove s s.replayGrant := by
  refine .onEngines s _ (fun h _ sound => ?_) fun h => ?_
  · split
    · rename_i engine
      split
      · exact sound.grantCopy engine _ _ _ _
      · exact sound
    all_goals exact sound
  · split
    · split
      · rw [Attached.replayAdvance_command, (Attached.claimSlot_engines ..).2]
      · rfl
    all_goals rfl

/-- R67, R69: a release step. -/
theorem HostMove.releaseStep (s : State) (n : RingNo) : HostMove s (s.releaseStep n) := by
  unfold State.releaseStep
  split
  · exact .kept s.capture
  · rename_i e _
    split
    · obtain ⟨h, attached, same⟩ | ⟨-, same⟩ := (s.onCapture (Capture.release n e)).onHost_cases fun h =>
        h.claimSlot n (s.capture.releasedRecord n e).archived false false s.capture.elapsed
      · rw [same]
        obtain ⟨archive, command⟩ := Attached.claimSlot_engines h n (s.capture.releasedRecord n e).archived false false s.capture.elapsed
        refine .session _ attached (fun sound => ?_) (.inl (by rw [command]))
        exact ((Attached.sound_iff.mp sound).claimSlot _ _ _ _ _).toSound (by rw [archive, command])
      · rw [same]
        exact .kept _
    · exact .kept s.capture

/-- R121: the take of a command. -/
theorem HostMove.takeCommand (s : State) : HostMove s s.takeCommand := by
  unfold State.takeCommand
  split
  · rename_i h attached
    split
    · rename_i free
      refine .takes _ _ attached ?_ fun sound => sound.take free _ _ _
      simp only [Attached.canTakeCommand, Bool.and_eq_true] at free
      cases engine : h.command with
      | idle => rfl
      | reading a d k => rw [engine] at free; exact absurd free.1.1 (by simp [CommandEngine.isIdle])
      | executing k t => rw [engine] at free; exact absurd free.1.1 (by simp [CommandEngine.isIdle])
    · exact .kept s.capture
  all_goals exact .kept s.capture

/-- R118: a CMD_TAIL write. -/
theorem HostMove.writeCmdTail (s : State) (value : BitVec 32) : HostMove s (s.writeCmdTail value) := by
  unfold State.writeCmdTail
  split
  · rename_i h attached
    split
    · rename_i within
      exact .session s.capture attached (fun sound => sound.setTail within) (.inl rfl)
    · exact .raiseFault s (by decide)
  all_goals exact .kept s.capture

/-- R119, R172: a CPL_HEAD write. -/
theorem HostMove.writeCplHead (s : State) (value : BitVec 32) : HostMove s (s.writeCplHead value) := by
  unfold State.writeCplHead
  split
  · rename_i h attached
    split
    · rename_i valid
      refine .session s.capture attached (fun sound => sound.setCompletionHead valid _) (.inl ?_)
      rw [(Attached.arm_engines ..).2]
    · exact .raiseFault s (by decide)
  all_goals exact .kept s.capture

/-- R119, R172: an EVT_HEAD write. -/
theorem HostMove.writeEvtHead (s : State) (n : RingNo) (value : BitVec 32) : HostMove s (s.writeEvtHead n value) := by
  unfold State.writeEvtHead
  split
  · rename_i h attached
    split
    · rename_i r present
      split
      · rename_i valid
        refine .session s.capture attached (fun sound => ?_) (.inl (by rw [(Attached.arm_engines ..).2]))
        have owing := Attached.sound_iff.mp sound
        have ring := (HostRing.freeSlots_validHead (owing.eventRings n r present) valid).1
        exact ((owing.setEventRing n ring).arm (ringVector_ne_five n) _).toSound
          (by rw [(Attached.arm_engines ..).1, (Attached.arm_engines ..).2])
      · exact .raiseFault s (by decide)
    · exact .raiseFault s (by decide)
  all_goals exact .kept s.capture

/-- R157: a CONTROL write. -/
theorem HostMove.writeControl (s : State) (value : BitVec 32) : HostMove s (s.writeControl value) := by
  unfold State.writeControl
  split
  · exact .attach s
  · split
    · exact .ends s.capture rfl
    · split
      · exact .ends s.capture rfl
      · exact .kept s.capture

theorem Session.eq_detached {x : Session} (h : x.isDetached = true) : x = .detached := by
  cases x with
  | detached => rfl
  | attaching _ _ _ => cases h
  | attached _ => cases h
  | faulted _ => cases h

/-- R176: a register write. -/
theorem HostMove.writeRegister (s : State) (offset : BitVec 12) (value : BitVec 32) (enables : BitVec 4) :
    HostMove s (s.writeRegister offset value enables) := by
  unfold State.writeRegister
  split
  · split
    · exact .writeControl s value
    · split
      · rename_i detached
        exact .ends s.capture (Session.eq_detached detached)
      · exact .kept s.capture
    · split
      · rename_i detached
        exact .ends s.capture (Session.eq_detached detached)
      · exact .kept s.capture
    · exact .writeCmdTail s value
    · exact .writeCplHead s value
    · exact .writeEvtHead s 0 value
    · exact .writeEvtHead s 1 value
    · exact .writeEvtHead s 2 value
    · exact .writeEvtHead s 3 value
    · exact .kept s.capture
  · exact .kept s.capture

theorem Attached.afterIssue_readNumber (h : Attached) (source : WriteSource) (now : Nat) :
    (h.afterIssue source now).command.readNumber = h.command.readNumber ∨
    (h.afterIssue source now).command.readNumber = none := by
  have posted : ∀ v, (h.post v now).command = h.command := fun v => by
    rw [Attached.post_eq]
    split <;> rfl
  cases source with
  | completion => exact .inl (by rw [Attached.afterIssue, posted])
  | record n => exact .inl (by rw [Attached.afterIssue, posted])
  | message v => exact .inl rfl
  | buffer =>
    simp only [Attached.afterIssue]
    split
    · exact .inr rfl
    all_goals exact .inl rfl

/-- R126: an issue puts a write on the link. -/
theorem HostMove.issueWrite (s : State) :
    HostMove s s.issueWrite ∨ ∃ w, HostMove { s with link := w :: s.link } s.issueWrite := by
  unfold State.issueWrite
  split
  · rename_i h attached
    split
    · rename_i w rest _
      split
      · refine .inr ⟨w.onLink, .session s.capture attached (fun sound => sound.afterIssue rest _ _) ?_⟩
        exact Attached.afterIssue_readNumber _ _ _
      · exact .inl (.kept s.capture)
    · exact .inl (.kept s.capture)
  · rename_i w faulted
    split
    · exact .inr ⟨w.onLink, .silenced (s := { s with link := w.onLink :: s.link }) faulted s.host.faultNotifyFailed⟩
    · exact .inl (.kept s.capture)
  all_goals exact .inl (.kept s.capture)

/-- R170: the expiry of a coalescing timer. Vector 5 has none (R173). -/
theorem HostMove.coalescingTimerExpiry (s : State) (v : VectorNo) :
    HostMove s (s.onHost fun h => if h.timerDue v s.capture.elapsed then h.send v s.capture.elapsed else h) := by
  refine .onEngines s _ (fun h _ sound => ?_) fun h => ?_
  · split
    · rename_i due
      have owing := Attached.sound_iff.mp sound
      refine (owing.messageSent (v := v) ?_ _).toSound rfl
      rintro rfl
      simp [Attached.timerDue, owing.faultVector.2.2] at due
    · exact sound
  · split <;> rfl

/-! ### One command, and one step -/

/-- Everything one command can do outside the capture side. -/
theorem exec_host (c : Instr) (s : State) : ∃ t, exec c s = .next t ∧
    (HostMove s t ∨ (c = .memoryWriteIssue ∧ ∃ w, HostMove { s with link := w :: s.link } t)) := by
  cases c with
  | memoryWriteIssue =>
    refine ⟨_, rfl, ?_⟩
    rcases HostMove.issueWrite s with move | issued
    · exact .inl move
    · exact .inr ⟨rfl, issued⟩
  | rawChange i l => exact ⟨_, rfl, .inl (.kept _)⟩
  | debounceExpiry i => exact ⟨_, rfl, .inl (.kept _)⟩
  | windowTimerExpiry i => exact ⟨_, rfl, .inl (.kept _)⟩
  | quietTimerExpiry i => exact ⟨_, rfl, .inl (.kept _)⟩
  | syncPulse l => exact ⟨_, rfl, .inl (.kept _)⟩
  | holdExpiry => exact ⟨_, rfl, .inl (.kept _)⟩
  | lossExpiry => exact ⟨_, rfl, .inl (.kept _)⟩
  | holdoverExpiry => exact ⟨_, rfl, .inl (.kept _)⟩
  | entryEligible n => exact ⟨_, rfl, .inl (.kept s.capture)⟩
  | releaseStep n => exact ⟨_, rfl, .inl (.releaseStep s n)⟩
  | replayRead =>
    exact ⟨_, rfl, .inl (.onEngines s _ (fun _ _ sound => sound.replayRead _ _) fun h => h.replayRead_command _ _)⟩
  | replayGrant => exact ⟨_, rfl, .inl (.replayGrant s)⟩
  | verifyRead =>
    exact ⟨_, rfl, .inl (.onEngines s _ (fun _ _ sound => sound.verifyRead _ _) fun h => h.verifyRead_command _ _)⟩
  | commandTake => exact ⟨_, rfl, .inl (.takeCommand s)⟩
  | badKind kind head =>
    refine ⟨_, rfl, .inl ?_⟩
    split
    · exact .kept s.capture
    · exact .ofRun _ _ _ _ _ fun _ h => .handCompletion s.capture _
  | configureLines head p => exact ⟨_, rfl, .inl (.ofRun _ _ _ _ _ fun _ h => .handCompletion _ _)⟩
  | configureGroup head group cls ring enabled => exact ⟨_, rfl, .inl (.ofRun _ _ _ _ _ fun _ h => .configureGroup s h _ _ _)⟩
  | configureTimebase head enable edge tolerance limit => exact ⟨_, rfl, .inl (.ofRun _ _ _ _ _ fun _ h => .handCompletion _ _)⟩
  | setTime head value => exact ⟨_, rfl, .inl (.ofRun _ _ _ _ _ fun _ h => .setTime s h _ _)⟩
  | getTime head => exact ⟨_, rfl, .inl (.ofRun _ _ _ _ _ fun _ h => .handCompletion s.capture _)⟩
  | snapshotLevels head address => exact ⟨_, rfl, .inl (.ofRun _ _ _ _ _ fun _ h => .writeBuffer s.capture _ _ _ _)⟩
  | snapshotCounters head mask clear => exact ⟨_, rfl, .inl (.ofRun _ _ _ _ _ fun _ h => .handCompletion _ _)⟩
  | readStatistics head address clear => exact ⟨_, rfl, .inl (.ofRun _ _ _ _ _ fun _ h => .readStatistics s h _ _ _)⟩
  | replay head first count ring =>
    exact ⟨_, rfl, .inl (.ofRun _ _ _ _ _ fun _ h =>
      .onEngines _ (fun owes => owes.takeReplay _ _ _ _ _ _) (h.takeReplay_command _ _ _ _ _ _))⟩
  | verifyArchive head first count =>
    exact ⟨_, rfl, .inl (.ofRun _ _ _ _ _ fun _ h =>
      .onEngines _ (fun owes => owes.takeVerify _ _ _ _ _) (h.takeVerify_command _ _ _ _ _))⟩
  | abort head target =>
    exact ⟨_, rfl, .inl (.ofRun _ _ _ _ _ fun _ h =>
      .onEngines _ (fun owes => owes.abort _ _ _) (h.abort_command _ _ _))⟩
  | setNotify head vector threshold delay =>
    refine ⟨_, rfl, .inl (.ofRun _ _ _ _ _ fun accepted h => .onEngines _ (fun owes => ?_) (h.setNotify_command _ _ _ _ _))⟩
    exact owes.setNotify _ _ _ (notifyFailure_threshold accepted) (Nat.le_of_lt_succ delay.isLt)
  | coalescingTimerExpiry v => exact ⟨_, rfl, .inl (.coalescingTimerExpiry s v)⟩
  | cmdTail v => exact ⟨_, rfl, .inl (.writeCmdTail s v)⟩
  | cplHead v => exact ⟨_, rfl, .inl (.writeCplHead s v)⟩
  | evtHead n v => exact ⟨_, rfl, .inl (.writeEvtHead s n v)⟩
  | registerWrite offset value enables => exact ⟨_, rfl, .inl (.writeRegister s _ _ _)⟩
  | attach => exact ⟨_, rfl, .inl (.attach s)⟩
  | blockReadComplete answer => exact ⟨_, rfl, .inl (.blockRead s _ _)⟩
  | initBusError cause =>
    refine ⟨_, rfl, .inl ?_⟩
    split
    · split
      · exact .raiseFault s (by decide)
      · exact .kept s.capture
    all_goals exact .kept s.capture
  | readBusError cause =>
    refine ⟨_, rfl, .inl ?_⟩
    split
    · split
      · split
        · exact .raiseFault s (by decide)
        · exact .kept s.capture
      all_goals exact .kept s.capture
    all_goals exact .kept s.capture
  | writeBusError =>
    refine ⟨_, rfl, .inl ?_⟩
    split
    · split
      · split
        · exact .raiseFault s (by decide)
        · exact .kept s.capture
      · exact .kept s.capture
    all_goals exact .kept s.capture
  | faultNotifyFailed =>
    refine ⟨_, rfl, .inl ?_⟩
    split
    · rename_i faulted
      split
      · exact .silenced faulted true
      · exact .kept s.capture
    all_goals exact .kept s.capture
  | detach => exact ⟨_, rfl, .inl (.ends s.capture rfl)⟩
  | reset => exact ⟨_, rfl, .inl (.ends s.capture rfl)⟩
  | linkReset origin => exact ⟨_, rfl, .inl (.ends s.capture rfl)⟩
  | powerOnReset levels sync => exact ⟨_, rfl, .inl (.ends _ rfl)⟩
  | retentionDisturbance q record code => exact ⟨_, rfl, .inl (.kept _)⟩

/-- Everything one step can do outside the capture side, but for the queue and the link. -/
theorem step_host {s t : State} (h : step s = .next t) :
    ∃ u : State, u.host = s.host ∧ u.reads = s.reads ∧ HostMove u t := by
  have ofExec : ∀ {c : Instr} {u : State}, u.host = s.host → u.reads = s.reads → exec c u = .next t →
      ∃ v : State, v.host = s.host ∧ v.reads = s.reads ∧ HostMove v t := by
    intro c u hh hr ht
    obtain ⟨v, hv, move | ⟨-, w, move⟩⟩ := exec_host c u
    · cases hv.symm.trans ht
      exact ⟨u, hh, hr, move⟩
    · cases hv.symm.trans ht
      exact ⟨{ u with link := w :: u.link }, hh, hr, move⟩
  unfold step at h
  split at h
  · rename_i rest _
    exact ofExec (u := { s with pending := rest }) rfl rfl h
  · unfold idleStep at h
    split at h
    · exact ofExec rfl rfl h
    · unfold tick at h
      split at h
      · cases h
        exact ⟨s, rfl, rfl, .kept _⟩
      · cases h

/-- A move from a sound host side leaves it sound. -/
theorem HostMove.sessionSound {s t : State} (move : HostMove s t) (before : SessionSound s.host) : SessionSound t.host := by
  cases move with
  | kept c => exact before
  | session c attached sound reads =>
    simp only [SessionSound, attached] at before
    exact ⟨sound before.1, before.2⟩
  | takes address dueAt attached idle sound =>
    simp only [SessionSound, attached] at before
    exact ⟨sound before.1, before.2⟩
  | attaches address dueAt detached => exact ⟨rfl, rfl, rfl⟩
  | begins attaching idle sound =>
    simp only [SessionSound, attaching] at before
    exact ⟨sound, before⟩
  | faults isFault index message => exact isFault
  | silenced faulted failed =>
    simp only [SessionSound, faulted] at before
    exact before
  | ends c detached => simp only [SessionSound, detached]

/-- What a move does to the read in flight and to the number of reads issued. -/
theorem HostMove.reads {s t : State} (move : HostMove s t) :
    (t.reads = s.reads ∧ (t.readInFlight = s.readInFlight ∨ t.readInFlight = none)) ∨
    (t.reads = s.reads + 1 ∧ s.readInFlight = none ∧ t.readInFlight = some s.reads) := by
  cases move with
  | kept c => exact .inl ⟨rfl, .inl rfl⟩
  | session c attached sound reads =>
    refine .inl ⟨rfl, ?_⟩
    rw [State.readInFlight_attached attached, State.readInFlight_attached rfl]
    exact reads
  | takes address dueAt attached idle sound =>
    refine .inr ⟨rfl, ?_, rfl⟩
    rw [State.readInFlight_attached attached, idle]
    rfl
  | attaches address dueAt detached => exact .inr ⟨rfl, by simp only [State.readInFlight, detached], rfl⟩
  | begins attaching idle sound =>
    refine .inl ⟨rfl, .inr ?_⟩
    rw [State.readInFlight_attached rfl, idle]
    rfl
  | faults isFault index message => exact .inl ⟨rfl, .inr rfl⟩
  | silenced faulted failed => exact .inl ⟨rfl, .inr rfl⟩
  | ends c detached => exact .inl ⟨rfl, .inr (by simp only [State.readInFlight, detached])⟩

/-- A move leaves the queue and the link. -/
theorem HostMove.frame {s t : State} (move : HostMove s t) : t.pending = s.pending ∧ t.link = s.link := by
  cases move <;> exact ⟨rfl, rfl⟩

theorem State.readInFlight_congr {s t : State} (host : t.host = s.host) : t.readInFlight = s.readInFlight := by
  simp only [State.readInFlight, host]

/-- Over one step a read is in flight only under the number it was issued with. -/
theorem step_reads {s t : State} (h : step s = .next t) :
    (t.reads = s.reads ∧ (t.readInFlight = s.readInFlight ∨ t.readInFlight = none)) ∨
    (t.reads = s.reads + 1 ∧ s.readInFlight = none ∧ t.readInFlight = some s.reads) := by
  obtain ⟨u, host, reads, move⟩ := step_host h
  rw [← reads, ← State.readInFlight_congr host]
  exact move.reads

/-- Settles O59, from what one step can do to the host side. -/
theorem sessionStaysSound : Obligations.SessionStaysSound := by
  unfold Obligations.SessionStaysSound
  intro s t before h
  obtain ⟨u, host, -, move⟩ := step_host h
  exact move.sessionSound (host ▸ before)

/-- Settles O60, from what one step can do to the host side. -/
theorem abandonedReadsStayAbandoned : Obligations.AbandonedReadsStayAbandoned := by
  unfold Obligations.AbandonedReadsStayAbandoned
  refine ⟨fun s t h => step_reads h, fun s t before h number inFlight => ?_⟩
  rcases step_reads h with ⟨reads, same | none⟩ | ⟨reads, -, issued⟩
  · rw [reads]
    exact before number (same ▸ inFlight)
  · rw [none] at inFlight
    cases inFlight
  · rw [issued] at inFlight
    cases inFlight
    omega

end Sys2Proof.Machine
end

section
/-! Proofs about the machine as a whole: what every command leaves alone, which commands leave the capture side, and the laws of the
counters. -/

namespace Sys2Proof.Machine

-- One declaration at a time: the check of the whole text then stays within its memory.
set_option Elab.async false

/-! ### Commands that leave the capture side (R113, R154, R165) -/

/-- The commands that have no part in the capture side. -/
def keepsCapture : Instr → Bool
  | .replayRead | .replayGrant | .verifyRead | .commandTake | .badKind _ _ | .getTime _ | .snapshotLevels _ _ | .replay _ _ _ _
  | .verifyArchive _ _ _ | .abort _ _ | .setNotify _ _ _ _ | .memoryWriteIssue | .coalescingTimerExpiry _ | .cmdTail _ | .cplHead _
  | .evtHead _ _ | .registerWrite _ _ _ | .attach | .blockReadComplete _ | .initBusError _ | .readBusError _ | .writeBusError
  | .faultNotifyFailed | .detach | .reset | .linkReset _ | .entryEligible _ => true
  | .rawChange _ _ | .debounceExpiry _ | .windowTimerExpiry _ | .quietTimerExpiry _ | .syncPulse _ | .holdExpiry | .lossExpiry
  | .holdoverExpiry | .releaseStep _ | .configureLines _ _ | .configureGroup _ _ _ _ _ | .configureTimebase _ _ _ _ _ | .setTime _ _
  | .snapshotCounters _ _ _ | .readStatistics _ _ _ | .powerOnReset _ _ | .retentionDisturbance _ _ _ => false

/-- A property of the capture side holds after a host command, where it holds before and after the command's body. -/
theorem State.runCommand_capture {s : State} {P : Capture → Prop} (read : Nat) (kind : Byte) (tag : BitVec 16) (failure : Option Nat)
    {body : State → State} (kept : P s.capture) (carried : failure = none → ∀ t, t.capture = s.capture → P (body t).capture) :
    P (s.runCommand read kind tag failure body).capture := by
  obtain ⟨e, -⟩ | ⟨h, index, -, -, e⟩ | ⟨h, -, accepted, e⟩ := s.runCommand_cases read kind tag failure body
  · rwa [e]
  · rwa [e]
  · rw [e]
    exact carried accepted _ rfl

/-- A host command whose body leaves the capture side leaves it. -/
theorem State.runCommand_capture_kept {s : State} (read : Nat) (kind : Byte) (tag : BitVec 16) (failure : Option Nat)
    {body : State → State} (quiet : ∀ t, (body t).capture = t.capture) :
    (s.runCommand read kind tag failure body).capture = s.capture :=
  State.runCommand_capture (P := (· = s.capture)) read kind tag failure rfl fun _ t same => (quiet t).trans same

theorem State.raiseFault_if_capture (s : State) (fails : Bool) (code : FaultCode) :
    (if fails then s.raiseFault code else s).capture = s.capture := by
  cases fails
  · rfl
  · exact s.raiseFault_capture code

theorem exec_capture_kept {c : Instr} {s t : State} (keeps : keepsCapture c = true) (run : exec c s = .next t) :
    t.capture = s.capture := by
  cases c with
  | rawChange _ _ | debounceExpiry _ | windowTimerExpiry _ | quietTimerExpiry _ | syncPulse _ | holdExpiry | lossExpiry
  | holdoverExpiry | releaseStep _ | configureLines _ _ | configureGroup _ _ _ _ _ | configureTimebase _ _ _ _ _ | setTime _ _
  | snapshotCounters _ _ _ | readStatistics _ _ _ | powerOnReset _ _ | retentionDisturbance _ _ _ => cases keeps
  | entryEligible _ | detach | reset | linkReset _ => cases run; rfl
  | badKind kind head =>
    cases run
    split
    · rfl
    · exact State.runCommand_capture_kept _ _ _ _ fun t => State.complete_capture _ _ _ _ _
  | getTime _ => cases run; exact State.runCommand_capture_kept _ _ _ _ fun t => State.complete_capture _ _ _ _ _
  | snapshotLevels _ _ => cases run; exact State.runCommand_capture_kept _ _ _ _ fun t => State.writeBuffer_capture _ _ _ _ _
  | replay _ _ _ _ | verifyArchive _ _ _ | abort _ _ | setNotify _ _ _ _ =>
    cases run; exact State.runCommand_capture_kept _ _ _ _ fun t => State.onHost_capture _ _
  | replayRead | replayGrant | verifyRead | coalescingTimerExpiry _ => cases run; exact State.onHost_capture _ _
  | commandTake => cases run; exact State.takeCommand_capture _
  | memoryWriteIssue => cases run; exact State.issueWrite_capture _
  | cmdTail value => cases run; exact State.writeCmdTail_capture _ _
  | cplHead value => cases run; exact State.writeCplHead_capture _ _
  | evtHead n value => cases run; exact State.writeEvtHead_capture _ _ _
  | registerWrite offset value enables => cases run; exact State.writeRegister_capture _ _ _ _
  | attach => cases run; exact State.attach_capture _
  | blockReadComplete answer => cases run; exact State.blockRead_capture _ _ _
  | initBusError cause =>
    cases run
    split
    · exact s.raiseFault_if_capture _ _
    all_goals rfl
  | readBusError cause =>
    cases run
    split
    · split
      · exact s.raiseFault_if_capture _ _
      all_goals rfl
    all_goals rfl
  | writeBusError =>
    cases run
    split
    · split
      · exact s.raiseFault_if_capture _ _
      · rfl
    all_goals rfl
  | faultNotifyFailed =>
    cases run
    split
    · split <;> rfl
    all_goals rfl

/-! ### The elapsed count, the time value and the archive over one command -/

/-- The capture side `d` continues `c`: no reset is between them. The sequence counter and the bounds of the archive stay, or
one record is numbered and appended. -/
structure Capture.Continues (c d : Capture) : Prop where
  elapsed : d.elapsed = c.elapsed
  archive : (d.sequence = c.sequence ∧ d.archive.bounds = c.archive.bounds) ∨
    ∃ record, d.sequence = c.sequence + 1 ∧ d.archive = c.archive.append c.sequence record

/-- In `d` the generation is that of `c`, and the time value no less. -/
structure Capture.KeepsTime (c d : Capture) : Prop where
  generation : d.timebase.generation = c.timebase.generation
  timeValue : c.timebase.timeValue ≤ d.timebase.timeValue

theorem Capture.Continues.refl (c : Capture) : c.Continues c := ⟨rfl, .inl ⟨rfl, rfl⟩⟩
theorem Capture.KeepsTime.refl (c : Capture) : c.KeepsTime c := ⟨rfl, le_rfl⟩

theorem Reworks.continues {c d : Capture} (reworked : Reworks c d) : c.Continues d := by
  rw [reworked.frame]
  exact ⟨rfl, .inl ⟨rfl, rfl⟩⟩

theorem Reworks.keepsTime {c d : Capture} (reworked : Reworks c d) : c.KeepsTime d := by
  rw [reworked.frame]
  exact ⟨rfl, le_rfl⟩

theorem TimebaseMove.keepsTime {c : Capture} {t : Timebase} (moved : TimebaseMove c.elapsed c.timebase t) (level : Level) :
    c.KeepsTime { c with syncLevel := level, timebase := t } :=
  ⟨moved.counts.1, moved.counts.2⟩

theorem Capture.setTime_continues (c : Capture) (value : Nat) (systemRing : RingNo) : c.Continues (c.setTime value systemRing) where
  elapsed := by simp
  archive := .inl (by simp only [Capture.setTime, Capture.stage_sequence, Capture.stage_archive]; exact ⟨rfl, rfl⟩)

/-- What a command other than a power-on reset makes of the capture side: it continues, and time is kept but by a SET_TIME. -/
inductive CaptureCourse (c : Capture) (i : Instr) (d : Capture) : Prop
  | powerOn (levels : BitVec 48) (sync : Level) (command : i = .powerOnReset levels sync)
  | setTime (read : Nat) (tag : BitVec 16) (value : BitVec 64) (systemRing : RingNo) (next : c.timebase.generation ≠ 0xFFFFFFFF#32)
      (command : i = .setTime ⟨read, tag⟩ value) (set : d = c.setTime value.toNat systemRing)
  | runs (continues : c.Continues d) (time : c.KeepsTime d)

theorem CaptureCourse.refl (c : Capture) (i : Instr) : CaptureCourse c i c := .runs (.refl c) (.refl c)

theorem CaptureCourse.ofReworks {c d : Capture} (i : Instr) (reworked : Reworks c d) : CaptureCourse c i d :=
  .runs reworked.continues reworked.keepsTime

theorem CaptureCourse.ofTimebase {c : Capture} (i : Instr) {t : Timebase} (moved : TimebaseMove c.elapsed c.timebase t)
    (level : Level) : CaptureCourse c i { c with syncLevel := level, timebase := t } :=
  .runs ⟨rfl, .inl ⟨rfl, rfl⟩⟩ (moved.keepsTime level)

theorem CaptureCourse.ofSample (c : Capture) (i : Instr) (level : Level) : CaptureCourse c i (c.syncSample level) := by
  unfold Capture.syncSample
  split
  · exact .refl c i
  · split
    · rename_i active
      exact .ofTimebase i (.pulse active.2.1 active.2.2) level
    · exact .ofTimebase i .kept level

/-- Every command's course. -/
theorem exec_course {c : Instr} {s t : State} (run : exec c s = .next t) : CaptureCourse s.capture c t.capture := by
  by_cases keeps : keepsCapture c = true
  · rw [exec_capture_kept keeps run]
    exact .refl _ _
  cases c with
  | rawChange i raw => cases run; exact .ofReworks _ (.rawChange .refl i raw)
  | debounceExpiry i => cases run; exact .ofReworks _ (.debounceExpiry .refl i)
  | windowTimerExpiry i => cases run; exact .ofReworks _ (.windowExpiry .refl i)
  | quietTimerExpiry i => cases run; exact .ofReworks _ (.quietExpiry .refl i)
  | syncPulse level => cases run; exact .ofSample _ _ level
  | holdExpiry => cases run; exact .ofTimebase _ .endHold _
  | lossExpiry => cases run; exact .ofTimebase _ .lose _
  | holdoverExpiry => cases run; exact .ofTimebase _ .endHoldover _
  | releaseStep n =>
    cases run
    unfold State.releaseStep
    split
    · exact .refl _ _
    · split
      · rw [State.onHost_capture]
        exact .runs ⟨rfl, .inr ⟨_, rfl, rfl⟩⟩ ⟨rfl, le_rfl⟩
      · exact .refl _ _
  | configureLines head p =>
    cases run
    refine State.runCommand_capture _ _ _ _ (.refl _ _) fun _ t same => ?_
    simp only [State.configureLines, State.complete_capture, State.onCapture_capture, same]
    have reworked := Reworks.configureLineFold s.capture (maskedLines p.lineMask) (lineConfigOf p)
    exact .runs ⟨reworked.continues.elapsed, reworked.continues.archive⟩ ⟨reworked.keepsTime.generation, reworked.keepsTime.timeValue⟩
  | configureGroup head group cls ring enabled =>
    cases run
    refine State.runCommand_capture _ _ _ _ (.refl _ _) fun _ t same => ?_
    unfold State.configureGroup
    split
    · simp only [State.complete_capture, State.onCapture_capture, same]
      exact .runs ⟨rfl, .inl ⟨rfl, rfl⟩⟩ ⟨rfl, le_rfl⟩
    · rw [State.complete_capture, same]
      exact .refl _ _
  | configureTimebase head enable edge tolerance limit =>
    cases run
    refine State.runCommand_capture _ _ _ _ (.refl _ _) fun accepted t same => ?_
    simp only [State.configureTimebase, State.complete_capture, State.onCapture_capture, same]
    exact .ofTimebase _ (.configure _ _ _ _ (timebaseFailure_ranges accepted)) _
  | setTime head value =>
    cases run
    refine State.runCommand_capture _ _ _ _ (.refl _ _) fun _ t same => ?_
    unfold State.setTime
    split
    · split
      · rw [State.complete_capture, same]
        exact .refl _ _
      · rename_i next
        split
        · rw [State.complete_capture, same]
          exact .refl _ _
        · simp only [State.complete_capture, State.onCapture_capture, same] at next ⊢
          exact .setTime _ _ _ _ next rfl rfl
    all_goals rw [same]; exact .refl _ _
  | snapshotCounters head mask clear =>
    cases run
    refine State.runCommand_capture _ _ _ _ (.refl _ _) fun _ t same => ?_
    simp only [State.snapshotCounters, State.complete_capture, State.onCapture_capture, same]
    exact .ofReworks _ (.snapshotCounters _ _ _)
  | readStatistics head address clear =>
    cases run
    refine State.runCommand_capture _ _ _ _ (.refl _ _) fun _ t same => ?_
    simp only [State.readStatistics, State.writeBuffer_capture]
    split
    · rw [State.onCapture_capture, same]
      exact .runs ⟨by simp, .inl (by simp)⟩ ⟨by simp, by simp⟩
    · rw [same]
      exact .refl _ _
  | powerOnReset levels sync => exact .powerOn levels sync rfl
  | retentionDisturbance q record code =>
    cases run
    exact .runs ⟨rfl, .inl ⟨rfl, (s.capture.archive.disturb_bounds q record code).1⟩⟩ ⟨rfl, le_rfl⟩
  | _ => exact absurd rfl keeps

/-- Over any command but a power-on reset the capture side continues. -/
theorem exec_continues {c : Instr} {s t : State} (run : exec c s = .next t) (stays : ∀ levels sync, c ≠ .powerOnReset levels sync) :
    s.capture.Continues t.capture := by
  cases exec_course run with
  | powerOn levels sync command => exact absurd command (stays levels sync)
  | setTime read tag value systemRing next command set =>
    rw [set]
    exact s.capture.setTime_continues _ _
  | runs continues time => exact continues

/-- R40: over any command but a power-on reset time is kept, or a SET_TIME has set it. -/
theorem exec_time {c : Instr} {s t : State} (run : exec c s = .next t) (stays : ∀ levels sync, c ≠ .powerOnReset levels sync) :
    s.capture.KeepsTime t.capture ∨ ∃ read tag value, c = .setTime ⟨read, tag⟩ value ∧
      t.capture.timebase.generation.toNat = s.capture.timebase.generation.toNat + 1 ∧
      t.capture.timebase.timeValue = value.toNat ∧ t.capture.timebase.quality = .free := by
  cases exec_course run with
  | powerOn levels sync command => exact absurd command (stays levels sync)
  | setTime read tag value systemRing next command set =>
    rw [set, Capture.setTime_timebase]
    exact .inr ⟨read, tag, value, command, toNat_nextGeneration next, rfl, rfl⟩
  | runs continues time => exact .inl time

/-! ### The events that the part finds due -/

/-- A debounce has run out exactly when the line has a candidate that has stood for it (R5, R8). -/
theorem Capture.debounceDue_iff {c : Capture} {i : LineNo} : c.debounceDue i = true ↔ ∃ level target capture stamp,
    (c.line i).qualifier = .candidate level target capture stamp ∧ capture + (c.line i).config.debounce ≤ c.elapsed := by
  unfold Capture.debounceDue
  cases (c.line i).qualifier with
  | off => simp
  | stable level => simp
  | candidate level target capture stamp => simp

theorem Timebase.holdDue_iff {t : Timebase} {now : Nat} : t.holdDue now = true ↔ ∃ x, t.holdExpiry = some x ∧ x ≤ now := by
  unfold Timebase.holdDue
  cases t.holdExpiry with
  | none => simp
  | some x => simp

theorem Timebase.lossDue_iff {t : Timebase} {now : Nat} :
    t.lossDue now = true ↔ t.quality = .locked ∧ ∃ x, t.lastAccepted = some x ∧ x + 2500000 ≤ now := by
  unfold Timebase.lossDue
  cases t.quality <;> cases t.lastAccepted <;> simp

theorem Timebase.holdoverDue_iff {t : Timebase} {now : Nat} : t.holdoverDue now = true ↔
    t.quality = .holdover ∧ ∃ x, t.holdoverEntry = some x ∧ x + t.holdoverLimit * 1000000 ≤ now := by
  unfold Timebase.holdoverDue
  cases t.quality <;> cases t.holdoverEntry <;> simp

theorem timedOut_iff {dueAt now : Nat} : timedOut dueAt now = true ↔ dueAt + 50000 ≤ now := decide_eq_true_iff

theorem Attached.timerDue_iff {h : Attached} {v : VectorNo} {now : Nat} :
    h.timerDue v now = true ↔ ∃ x, (h.vectors.get v).timer = some x ∧ x ≤ now := by
  unfold Attached.timerDue Attached.vector
  cases (h.vectors.get v).timer with
  | none => simp
  | some x => simp

/-- R63, R66: a live claim is the first entry of its ring, where it is eligible. -/
theorem Capture.liveClaim_eq_some {c : Capture} {n : RingNo} {e : Entry} :
    c.liveClaim n = some e ↔ c.firstFor n = some e ∧ e.capture + c.horizon ≤ c.elapsed := by
  unfold Capture.liveClaim
  cases c.firstFor n with
  | none => simp
  | some x =>
    by_cases eligible : c.eligible x = true
    · have reached : x.capture + c.horizon ≤ c.elapsed := of_decide_eq_true eligible
      simp only [eligible, if_true, Option.some.injEq]
      exact ⟨fun e => ⟨e, e ▸ reached⟩, fun e => e.1⟩
    · have waits : ¬ x.capture + c.horizon ≤ c.elapsed := fun reached => eligible (decide_eq_true reached)
      simp only [eligible, Option.some.injEq]
      exact ⟨nofun, fun e => absurd (e.1 ▸ e.2) waits⟩

theorem Capture.liveClaim_isSome {c : Capture} {n : RingNo} : (c.liveClaim n).isSome = true ↔ LiveClaimFor c n := by
  rw [Option.isSome_iff_exists]
  exact exists_congr fun e => Capture.liveClaim_eq_some

/-- R65: a ring that is attached takes a record while it has a free slot, and one that is not always does. -/
theorem State.canTake_iff {s : State} {n : RingNo} :
    s.canTake n = true ↔ ∀ r, s.attachedRing n = some r → r.occupied < r.size - 1 := by
  unfold State.canTake
  cases s.attachedRing n with
  | none => simp
  | some r => simp [HostRing.freeSlots]

theorem CommandEngine.isIdle_iff {e : CommandEngine} : e.isIdle = true ↔ e = .idle := by
  cases e <;> simp [CommandEngine.isIdle]

theorem ArchiveEngine.promised_eq (e : ArchiveEngine) : e.promised = if e = .idle then 0 else 1 := by
  cases e <;> rfl

/-- R121: the three conditions of a take. -/
theorem Attached.canTakeCommand_iff {h : Attached} : h.canTakeCommand = true ↔ h.command = .idle ∧ h.commandRing.waiting ≠ 0 ∧
    (if h.archiveEngine = .idle then 0 else 1) < h.completionRing.size - 1 - h.completionRing.occupied := by
  simp only [Attached.canTakeCommand, Bool.and_eq_true, CommandEngine.isIdle_iff, decide_eq_true_eq, ArchiveEngine.promised_eq,
    HostRing.freeSlots, Nat.pos_iff_ne_zero, and_assoc]

/-- R125: the arbiter grants a copy a free slot of its ring where there is no live claim. -/
theorem State.grantsCopy_iff {s : State} {n : RingNo} : s.grantsCopy n = true ↔
    ∃ r, s.attachedRing n = some r ∧ r.occupied < r.size - 1 ∧ ¬ LiveClaimFor s.capture n := by
  unfold State.grantsCopy
  cases s.attachedRing n with
  | none => simp
  | some r =>
    rw [← Capture.liveClaim_isSome]
    simp [HostRing.freeSlots]

/-- The events of the part's own that are due, each with what makes it due. -/
inductive DueEvent (s : State) : Instr → Prop
  | debounce (i : LineNo) (due : s.capture.debounceDue i = true) : DueEvent s (.debounceExpiry i)
  | window (i : LineNo) (due : s.capture.windowDue i = true) : DueEvent s (.windowTimerExpiry i)
  | quiet (i : LineNo) (due : s.capture.quietDue i = true) : DueEvent s (.quietTimerExpiry i)
  | hold (due : s.capture.timebase.holdDue s.capture.elapsed = true) : DueEvent s .holdExpiry
  | loss (due : s.capture.timebase.lossDue s.capture.elapsed = true) : DueEvent s .lossExpiry
  | holdover (due : s.capture.timebase.holdoverDue s.capture.elapsed = true) : DueEvent s .holdoverExpiry
  | release (n : RingNo) (claim : (s.capture.liveClaim n).isSome = true) (room : s.canTake n = true) : DueEvent s (.releaseStep n)
  | blockRead {address : BitVec 64} {dueAt number : Nat} (attaching : s.host.session = .attaching address dueAt number)
      (late : timedOut dueAt s.capture.elapsed = true) : DueEvent s (.initBusError .timeout)
  | faultMessage {w : DueWrite} (faulted : s.host.session = .faulted (some w)) (late : timedOut w.dueAt s.capture.elapsed = true) :
      DueEvent s .faultNotifyFailed
  | timer {h : Attached} (v : VectorNo) (attached : s.host.session = .attached h) (due : h.timerDue v s.capture.elapsed = true) :
      DueEvent s (.coalescingTimerExpiry v)
  | commandRead {h : Attached} {address : BitVec 64} {dueAt number : Nat} (attached : s.host.session = .attached h)
      (reading : h.command = .reading address dueAt number) (late : timedOut dueAt s.capture.elapsed = true) :
      DueEvent s (.readBusError .timeout)
  | write {h : Attached} {w : DueWrite} {rest : List DueWrite} (attached : s.host.session = .attached h) (first : h.due = w :: rest)
      (late : timedOut w.dueAt s.capture.elapsed = true) : DueEvent s .writeBusError
  | take {h : Attached} (attached : s.host.session = .attached h) (free : h.canTakeCommand = true) : DueEvent s .commandTake
  | replayRead {h : Attached} {x : ArchiveContext} {n : RingNo} (attached : s.host.session = .attached h)
      (engine : h.archiveEngine = .replaying x n none) (span : x.readFrom + 10 ≤ s.capture.elapsed) : DueEvent s .replayRead
  | replayGrant {h : Attached} {x : ArchiveContext} {n : RingNo} {copy : HeldCopy} (attached : s.host.session = .attached h)
      (engine : h.archiveEngine = .replaying x n (some copy)) (grants : s.grantsCopy n = true) : DueEvent s .replayGrant
  | verifyRead {h : Attached} {x : ArchiveContext} {crc : BitVec 32} (attached : s.host.session = .attached h)
      (engine : h.archiveEngine = .verifying x crc) (span : x.readFrom + 10 ≤ s.capture.elapsed) : DueEvent s .verifyRead

/-- The session's events among those due. -/
theorem DueEvent.of_mem_sessionEventsDue {s : State} {c : Instr} (due : c ∈ sessionEventsDue s) : DueEvent s c := by
  unfold sessionEventsDue at due
  split at due
  · cases due
  · rename_i attaching
    obtain ⟨late, rfl⟩ := List.mem_ite_nil_right.mp due |>.imp_right List.mem_singleton.mp
    exact .blockRead attaching late
  · rename_i h attached
    simp only [List.mem_append, timersDue, timeoutsDue, List.mem_map, List.mem_filter] at due
    obtain ((⟨v, ⟨-, expired⟩, rfl⟩ | reading | first) | take) | archive := due
    · exact .timer v attached expired
    · split at reading
      · rename_i command
        obtain ⟨late, rfl⟩ := List.mem_ite_nil_right.mp reading |>.imp_right List.mem_singleton.mp
        exact .commandRead attached command late
      all_goals cases reading
    · split at first
      · rename_i queue
        obtain ⟨late, rfl⟩ := List.mem_ite_nil_right.mp first |>.imp_right List.mem_singleton.mp
        exact .write attached queue late
      · cases first
    · obtain ⟨free, rfl⟩ := List.mem_ite_nil_right.mp take |>.imp_right List.mem_singleton.mp
      exact .take attached free
    · unfold archiveEventsDue at archive
      split at archive
      · cases archive
      · rename_i engine
        obtain ⟨span, rfl⟩ := List.mem_ite_nil_right.mp archive |>.imp_right List.mem_singleton.mp
        exact .replayRead attached engine span
      · rename_i engine
        obtain ⟨grants, rfl⟩ := List.mem_ite_nil_right.mp archive |>.imp_right List.mem_singleton.mp
        exact .replayGrant attached engine grants
      · rename_i engine
        obtain ⟨span, rfl⟩ := List.mem_ite_nil_right.mp archive |>.imp_right List.mem_singleton.mp
        exact .verifyRead attached engine span
  · cases due
  · rename_i faulted
    obtain ⟨late, rfl⟩ := List.mem_ite_nil_right.mp due |>.imp_right List.mem_singleton.mp
    exact .faultMessage faulted late

theorem DueEvent.of_mem {s : State} {c : Instr} (due : c ∈ eventsDue s) : DueEvent s c := by
  simp only [eventsDue, List.mem_append, List.mem_flatMap, lineEventsDue, timebaseEventsDue, releasesDue, List.mem_map,
    List.mem_filter, Bool.and_eq_true, List.mem_ite_nil_right, List.mem_singleton] at due
  obtain ((⟨i, -, (⟨expired, rfl⟩ | ⟨expired, rfl⟩) | ⟨expired, rfl⟩⟩ | (⟨expired, rfl⟩ | ⟨expired, rfl⟩) | ⟨expired, rfl⟩) |
    ⟨n, ⟨-, claim, room⟩, rfl⟩) | session := due
  · exact .debounce i expired
  · exact .window i expired
  · exact .quiet i expired
  · exact .hold expired
  · exact .loss expired
  · exact .holdover expired
  · exact .release n claim room
  · exact .of_mem_sessionEventsDue session

theorem DueEvent.mem {s : State} {c : Instr} (due : DueEvent s c) : c ∈ eventsDue s := by
  simp only [eventsDue, List.mem_append, List.mem_flatMap, lineEventsDue, timebaseEventsDue, releasesDue, List.mem_map,
    List.mem_filter, Bool.and_eq_true, List.mem_ite_nil_right, List.mem_singleton]
  cases due with
  | debounce i due => exact .inl (.inl (.inl ⟨i, List.mem_finRange i, .inl (.inl ⟨due, rfl⟩)⟩))
  | window i due => exact .inl (.inl (.inl ⟨i, List.mem_finRange i, .inl (.inr ⟨due, rfl⟩)⟩))
  | quiet i due => exact .inl (.inl (.inl ⟨i, List.mem_finRange i, .inr ⟨due, rfl⟩⟩))
  | hold due => exact .inl (.inl (.inr (.inl (.inl ⟨due, rfl⟩))))
  | loss due => exact .inl (.inl (.inr (.inl (.inr ⟨due, rfl⟩))))
  | holdover due => exact .inl (.inl (.inr (.inr ⟨due, rfl⟩)))
  | release n claim room => exact .inl (.inr ⟨n, ⟨List.mem_finRange n, claim, room⟩, rfl⟩)
  | blockRead attaching late => exact .inr (by simp [sessionEventsDue, attaching, late])
  | faultMessage faulted late => exact .inr (by simp [sessionEventsDue, faulted, late])
  | timer v attached due => exact .inr (by simp [sessionEventsDue, attached, timersDue, due])
  | commandRead attached reading late => exact .inr (by simp [sessionEventsDue, attached, timeoutsDue, reading, late])
  | write attached first late => exact .inr (by simp [sessionEventsDue, attached, timeoutsDue, first, late])
  | take attached free => exact .inr (by simp [sessionEventsDue, attached, free])
  | replayRead attached engine span => exact .inr (by simp [sessionEventsDue, attached, archiveEventsDue, engine, span])
  | replayGrant attached engine grants => exact .inr (by simp [sessionEventsDue, attached, archiveEventsDue, engine, grants])
  | verifyRead attached engine span => exact .inr (by simp [sessionEventsDue, attached, archiveEventsDue, engine, span])

theorem mem_eventsDue {s : State} {c : Instr} : c ∈ eventsDue s ↔ DueEvent s c := ⟨DueEvent.of_mem, DueEvent.mem⟩

/-- An event of the part's own is neither a power-on reset nor a host command. -/
theorem DueEvent.not_reset {s : State} {c : Instr} (due : DueEvent s c) : ∀ levels sync, c ≠ .powerOnReset levels sync := by
  cases due <;> exact fun _ _ => Instr.noConfusion

theorem DueEvent.not_setTime {s : State} {c : Instr} (due : DueEvent s c) : ∀ head value, c ≠ .setTime head value := by
  cases due <;> exact fun _ _ => Instr.noConfusion

/-! ### The statements -/

/-- Settles O1: the queue is taken apart by `step` alone. -/
theorem stepRunsFrontCommand : Obligations.StepRunsFrontCommand := fun _ _ => rfl

/-- Settles O4, from what one command can do to either side. -/
theorem everyCommandCompletes : Obligations.EveryCommandCompletes := by
  unfold Obligations.EveryCommandCompletes
  intro c s
  obtain ⟨t, run, move⟩ := exec_host c s
  have elapsed : t.capture.elapsed = s.capture.elapsed ∨ ∃ levels sync, c = .powerOnReset levels sync := by
    by_cases reset : ∃ levels sync, c = .powerOnReset levels sync
    · exact .inr reset
    · exact .inl (exec_continues run fun levels sync e => reset ⟨levels, sync, e⟩).elapsed
  rcases move with move | ⟨issue, w, move⟩
  · exact ⟨t, run, move.frame.1, .inl move.frame.2, elapsed⟩
  · exact ⟨t, run, move.frame.1, .inr ⟨issue, w, move.frame.2⟩, elapsed⟩

/-- Settles O5: the first part lists commands that keep the capture side, the second commands that run on it alone. -/
theorem sidesKeptApart : Obligations.SidesKeptApart := by
  unfold Obligations.SidesKeptApart
  refine ⟨fun s t c run listed => exec_capture_kept ?_ run, fun s t c run listed => ?_⟩
  · obtain rfl | rfl | rfl | rfl | ⟨_, _, _, rfl⟩ | ⟨_, _, rfl⟩ | ⟨_, _, _, rfl⟩ | ⟨_, _, _, _, _, rfl⟩ | ⟨_, _, _, _, rfl⟩ |
      ⟨_, _, _, rfl⟩ | ⟨_, _, _, _, _, rfl⟩ | rfl | ⟨_, rfl⟩ | ⟨_, rfl⟩ | ⟨_, rfl⟩ | ⟨_, _, rfl⟩ | ⟨_, _, _, rfl⟩ | rfl |
      ⟨_, _, rfl⟩ | ⟨_, rfl⟩ | ⟨_, rfl⟩ | rfl | rfl | rfl | rfl | ⟨_, rfl⟩ := listed
    all_goals rfl
  · obtain ⟨_, _, rfl⟩ | ⟨_, rfl⟩ | ⟨_, rfl⟩ | ⟨_, rfl⟩ | ⟨_, rfl⟩ | rfl | rfl | rfl | ⟨_, rfl⟩ | ⟨_, _, _, rfl⟩ := listed
    all_goals cases run; rfl

/-- Settles O6: a power-on reset takes nothing from the state but its queue, its link and its read numbers. -/
theorem powerOnReset : Obligations.PowerOnReset := by
  unfold Obligations.PowerOnReset
  refine ⟨fun levels sync s => ?_, rfl⟩
  refine ⟨_, rfl, rfl, rfl, rfl, rfl, fun i => Capture.powerOn_line levels sync i, rfl, rfl, rfl, rfl, rfl, rfl, rfl, fun g => ?_,
    fun n => ?_, rfl⟩
  · simp [Capture.powerOn, Vector.get_eq_getElem]
  · simp [Capture.powerOn, Vector.get_eq_getElem]

/-- Settles O7: right after reset nothing is staged, stamped, archived or attached. -/
theorem invariantsHoldAtReset : Obligations.InvariantsHoldAtReset := by
  unfold Obligations.InvariantsHoldAtReset
  obtain ⟨lines, horizon⟩ := Capture.powerOn_linesSound 0 false
  refine ⟨lines, horizon, ⟨List.Pairwise.nil, Nat.zero_le _, Nat.zero_le _, Nat.zero_le _⟩, Capture.powerOn_stampsSound 0 false,
    Capture.powerOn_timebaseSound 0 false, ⟨rfl, rfl⟩, trivial, fun number none => ?_⟩
  cases none

/-! ### The laws of the counters (R40, R68) -/

/-- From a sound archive, the record appended last is found under its number, and passes its check. -/
theorem Archive.find_append {c : Capture} (sound : ArchiveSound c) (record : Record32) :
    (c.archive.append c.sequence record).find c.sequence = some { record := record, code := checkCode record } ∧
    (c.archive.append c.sequence record).newest = c.sequence := by
  unfold ArchiveSound at sound
  cases bounds : c.archive.bounds with
  | none =>
    simp only [bounds] at sound
    simp [Archive.find, Archive.append, Archive.newest, Archive.full, bounds, sound.1]
  | some b =>
    simp only [bounds] at sound
    obtain ⟨positive, ordered, newest, length, capacity⟩ := sound
    refine ⟨?_, by simp [Archive.append, Archive.newest, bounds]⟩
    simp only [Archive.find, Archive.append, bounds]
    have place : ∀ (l : List ArchiveEntry) (x : ArchiveEntry), (l ++ [x])[l.length]? = some x := fun l x => by simp
    split
    · rename_i full
      have full : 16384 ≤ c.archive.entries.length := of_decide_eq_true full
      rw [if_pos ⟨by omega, le_rfl⟩, ← place (c.archive.entries.drop 1)]
      congr 1
      rw [List.length_drop]
      omega
    · rw [if_pos ⟨by omega, le_rfl⟩, ← place c.archive.entries]
      congr 1
      omega

/-- Settles O29, from the course of the command at the front of the queue, of a due event, or of one microsecond. -/
theorem countersLaw : Obligations.CountersLaw := by
  unfold Obligations.CountersLaw
  intro s t run stays
  have archive : s.capture.Continues t.capture ∨ (t.capture.sequence = s.capture.sequence ∧ t.capture.archive = s.capture.archive) →
      ArchiveSound s.capture →
      (t.capture.sequence = s.capture.sequence ∧ t.capture.archive.bounds = s.capture.archive.bounds) ∨
      (t.capture.sequence = s.capture.sequence + 1 ∧
        ∃ e, t.capture.archive.find s.capture.sequence = some e ∧ e.mismatch = false ∧
          t.capture.archive.newest = s.capture.sequence) := by
    rintro (continues | ⟨sequence, same⟩) sound
    · rcases continues.archive with stays | ⟨record, sequence, appended⟩
      · exact .inl stays
      · obtain ⟨found, newest⟩ := Archive.find_append sound record
        rw [← appended] at found newest
        exact .inr ⟨sequence, _, found, by simp [ArchiveEntry.mismatch], newest⟩
    · exact .inl ⟨sequence, by rw [same]⟩
  unfold step at run
  split at run
  · rename_i c rest front
    have notReset : ∀ levels sync, c ≠ .powerOnReset levels sync := fun levels sync e => stays levels sync (by rw [front, e]; rfl)
    refine ⟨?_, archive (.inl (exec_continues (s := { s with pending := rest }) run notReset))⟩
    obtain kept | ⟨read, tag, value, rfl, set⟩ := exec_time (s := { s with pending := rest }) run notReset
    · exact .inl ⟨kept.generation, kept.timeValue⟩
    · exact .inr ⟨read, tag, value, by rw [front]; rfl, set⟩
  · unfold idleStep at run
    split at run
    · rename_i c rest due
      have own : DueEvent s c := mem_eventsDue.mp (by rw [due]; exact List.mem_cons_self)
      refine ⟨?_, archive (.inl (exec_continues run own.not_reset))⟩
      obtain kept | ⟨read, tag, value, isSet, -⟩ := exec_time run own.not_reset
      · exact .inl ⟨kept.generation, kept.timeValue⟩
      · exact absurd isSet (own.not_setTime _ _)
    · unfold tick at run
      split at run
      · cases run
        exact ⟨.inl s.capture.timebase.tick_counts, archive (.inr ⟨rfl, rfl⟩)⟩
      · cases run

end Sys2Proof.Machine
end

section
/-! Proofs about the machine as a whole: when a microsecond passes, that a due event changes the state, and that an event without its
cause does not. -/

namespace Sys2Proof.Machine

-- One declaration at a time: the check of the whole text then stays within its memory.
set_option Elab.async false

/-! ### Idling (R38, R39) -/

/-- What is not due is what the manual's expiries, timeouts and conditions say. -/
theorem eventsDue_eq_nil {s : State} : eventsDue s = [] ↔ NothingDue s := by
  rw [List.eq_nil_iff_forall_not_mem]
  simp only [mem_eventsDue]
  constructor
  · intro none
    refine ⟨?debounce, ?window, ?quiet, ?hold, ?loss, ?holdover, ?release, ?blockRead, ?faultMessage, ?coalescing, ?commandRead,
      ?memoryWrite, ?take, ?archiveRead, ?grant⟩
    case debounce =>
      exact fun i level target capture stamp candidate => Nat.lt_of_not_le fun reached =>
        none _ (.debounce i (Capture.debounceDue_iff.mpr ⟨level, target, capture, stamp, candidate, reached⟩))
    case window =>
      exact fun i count expiry counting => Nat.lt_of_not_le fun reached =>
        none _ (.window i (Capture.windowDue_iff.mpr ⟨count, expiry, counting, reached⟩))
    case quiet =>
      exact fun i expiry chattering => Nat.lt_of_not_le fun reached =>
        none _ (.quiet i (Capture.quietDue_iff.mpr ⟨expiry, chattering, reached⟩))
    case hold =>
      exact fun x runs => Nat.lt_of_not_le fun reached => none _ (.hold (Timebase.holdDue_iff.mpr ⟨x, runs, reached⟩))
    case loss =>
      exact fun locked x last => Nat.lt_of_not_le fun reached => none _ (.loss (Timebase.lossDue_iff.mpr ⟨locked, x, last, reached⟩))
    case holdover =>
      exact fun holdover x entry => Nat.lt_of_not_le fun reached =>
        none _ (.holdover (Timebase.holdoverDue_iff.mpr ⟨holdover, x, entry, reached⟩))
    case release =>
      intro n claim
      by_contra waits
      refine none _ (.release n (Capture.liveClaim_isSome.mpr claim) (State.canTake_iff.mpr fun r ring => ?_))
      exact Nat.lt_of_not_le fun full => waits ⟨r, ring, full⟩
    case blockRead =>
      exact fun a d k attaching => Nat.lt_of_not_le fun late => none _ (.blockRead attaching (timedOut_iff.mpr late))
    case faultMessage =>
      exact fun w faulted => Nat.lt_of_not_le fun late => none _ (.faultMessage faulted (timedOut_iff.mpr late))
    case coalescing =>
      exact fun h v x attached runs => Nat.lt_of_not_le fun reached =>
        none _ (.timer v attached (Attached.timerDue_iff.mpr ⟨x, runs, reached⟩))
    case commandRead =>
      exact fun h a d k attached reading => Nat.lt_of_not_le fun late => none _ (.commandRead attached reading (timedOut_iff.mpr late))
    case memoryWrite =>
      exact fun h w rest attached first => Nat.lt_of_not_le fun late => none _ (.write attached first (timedOut_iff.mpr late))
    case take =>
      exact fun h attached idle waiting => Nat.le_of_not_lt fun free =>
        none _ (.take attached (Attached.canTakeCommand_iff.mpr ⟨idle, waiting, free⟩))
    case archiveRead =>
      rintro h x attached (⟨n, engine⟩ | ⟨crc, engine⟩)
      · exact Nat.lt_of_not_le fun span => none _ (.replayRead attached engine span)
      · exact Nat.lt_of_not_le fun span => none _ (.verifyRead attached engine span)
    case grant =>
      intro h x n copy r attached engine ring free
      by_contra noClaim
      refine none _ (.replayGrant attached engine (State.grantsCopy_iff.mpr ⟨r, ?_, free, noClaim⟩))
      simp only [State.attachedRing, attached]
      exact ring
  · intro nothing c due
    cases due with
    | debounce i due =>
      obtain ⟨level, target, capture, stamp, candidate, reached⟩ := Capture.debounceDue_iff.mp due
      exact Nat.not_le.mpr (nothing.debounce i level target capture stamp candidate) reached
    | window i due =>
      obtain ⟨count, expiry, counting, reached⟩ := Capture.windowDue_iff.mp due
      exact Nat.not_le.mpr (nothing.window i count expiry counting) reached
    | quiet i due =>
      obtain ⟨expiry, chattering, reached⟩ := Capture.quietDue_iff.mp due
      exact Nat.not_le.mpr (nothing.quiet i expiry chattering) reached
    | hold due =>
      obtain ⟨x, runs, reached⟩ := Timebase.holdDue_iff.mp due
      exact Nat.not_le.mpr (nothing.hold x runs) reached
    | loss due =>
      obtain ⟨locked, x, last, reached⟩ := Timebase.lossDue_iff.mp due
      exact Nat.not_le.mpr (nothing.loss locked x last) reached
    | holdover due =>
      obtain ⟨holdover, x, entry, reached⟩ := Timebase.holdoverDue_iff.mp due
      exact Nat.not_le.mpr (nothing.holdover holdover x entry) reached
    | release n claim room =>
      obtain ⟨r, ring, full⟩ := nothing.release n (Capture.liveClaim_isSome.mp claim)
      exact Nat.not_le.mpr (State.canTake_iff.mp room r ring) full
    | blockRead attaching late => exact Nat.not_le.mpr (nothing.blockRead _ _ _ attaching) (timedOut_iff.mp late)
    | faultMessage faulted late => exact Nat.not_le.mpr (nothing.faultMessage _ faulted) (timedOut_iff.mp late)
    | timer v attached due =>
      obtain ⟨x, runs, reached⟩ := Attached.timerDue_iff.mp due
      exact Nat.not_le.mpr (nothing.coalescing _ v x attached runs) reached
    | commandRead attached reading late => exact Nat.not_le.mpr (nothing.commandRead _ _ _ _ attached reading) (timedOut_iff.mp late)
    | write attached first late => exact Nat.not_le.mpr (nothing.memoryWrite _ _ _ attached first) (timedOut_iff.mp late)
    | take attached free =>
      obtain ⟨idle, waiting, slots⟩ := Attached.canTakeCommand_iff.mp free
      exact Nat.not_lt.mpr (nothing.take _ attached idle waiting) slots
    | replayRead attached engine span => exact Nat.not_le.mpr (nothing.archiveRead _ _ attached (.inl ⟨_, engine⟩)) span
    | replayGrant attached engine grants =>
      obtain ⟨r, ring, free, noClaim⟩ := State.grantsCopy_iff.mp grants
      simp only [State.attachedRing, attached] at ring
      exact noClaim (nothing.grant _ _ _ _ r attached engine ring free)
    | verifyRead attached engine span => exact Nat.not_le.mpr (nothing.archiveRead _ _ attached (.inr ⟨_, engine⟩)) span

/-- R39: the time value stands still while a hold runs. -/
theorem Timebase.tick_eq (t : Timebase) : t.tick =
    { t with timeValue := if t.holdExpiry = none then t.timeValue + 1 else t.timeValue } := by
  unfold Timebase.tick
  split
  · rename_i none
    rw [if_pos none]
  · rename_i x some
    rw [if_neg (by simp [some])]

/-- Settles O2: an idle step looks at the due events first, and a microsecond passes where there is none. -/
theorem idleStepTakesDueEventOrMicrosecond : Obligations.IdleStepTakesDueEventOrMicrosecond := by
  unfold Obligations.IdleStepTakesDueEventOrMicrosecond
  intro s empty
  have idle : step s = idleStep s := by simp only [step, empty]
  have ticks : NothingDue s → step s = tick s := fun nothing => by simp only [idle, idleStep, eventsDue_eq_nil.mpr nothing]
  refine ⟨fun c rest due => by simp only [idle, idleStep, due], eventsDue_eq_nil, fun nothing room => ?_, fun nothing past => ?_⟩
  · rw [ticks nothing, tick, if_pos room, Timebase.tick_eq]
  · rw [ticks nothing, tick, if_neg (Nat.not_lt.mpr past)]

/-! ### Due events change the state -/

theorem State.ne_of_line {s t : State} {i : LineNo} (h : t.capture.line i ≠ s.capture.line i) : t ≠ s := fun e => h (e ▸ rfl)

theorem State.ne_of_timebase {s t : State} (h : t.capture.timebase ≠ s.capture.timebase) : t ≠ s := fun e => h (e ▸ rfl)

theorem State.ne_of_session {s t : State} (h : t.host.session ≠ s.host.session) : t ≠ s := fun e => h (e ▸ rfl)

/-- A session with another archive engine is another session. -/
theorem State.ne_of_archiveEngine {s t : State} {h g : Attached} (attached : s.host.session = .attached h)
    (after : t.host.session = .attached g) (moved : g.archiveEngine ≠ h.archiveEngine) : t ≠ s := by
  refine State.ne_of_session fun same => ?_
  rw [attached, after] at same
  exact moved (congrArg Attached.archiveEngine (Session.attached.inj same))

/-- R102: a read of a REPLAY leaves it with a copy, or ends it. -/
theorem Attached.replayRead_moves {h : Attached} {x : ArchiveContext} {n : RingNo} (engine : h.archiveEngine = .replaying x n none)
    (a : Archive) (now : Nat) : (h.replayRead a now).archiveEngine ≠ h.archiveEngine := by
  simp only [Attached.replayRead, engine]
  split
  · simp
  · simp [Attached.endArchiveCommand]

/-- R106: a read of a VERIFY_ARCHIVE moves its next number, or ends it. -/
theorem Attached.verifyRead_moves {h : Attached} {x : ArchiveContext} {crc : BitVec 32} (engine : h.archiveEngine = .verifying x crc)
    (a : Archive) (now : Nat) : (h.verifyRead a now).archiveEngine ≠ h.archiveEngine := by
  simp only [Attached.verifyRead, engine]
  split
  · split
    · simp [Attached.endArchiveCommand]
    · intro same
      have next := congrArg ArchiveContext.next (ArchiveEngine.verifying.inj same).1
      simp [ArchiveContext.granted] at next
  · simp [Attached.endArchiveCommand]

/-- R102: the grant of a copy takes it from the engine. -/
theorem Attached.replayAdvance_moves {g : Attached} {c x : ArchiveContext} {n m : RingNo} {copy : HeldCopy} (now : Nat) :
    (g.replayAdvance c n now).archiveEngine ≠ .replaying x m (some copy) := by
  unfold Attached.replayAdvance
  split
  · simp [Attached.endArchiveCommand]
  · simp

/-- A due event changes the state when it is taken. -/
theorem DueEvent.changes {s t : State} {c : Instr} (due : DueEvent s c) (run : exec c s = .next t) : t ≠ s := by
  cases due with
  | debounce i due =>
    cases run
    obtain ⟨level, target, capture, stamp, candidate, -⟩ := Capture.debounceDue_iff.mp due
    refine State.ne_of_line (i := i) fun same => ?_
    have settled := Capture.confirm_line s.capture i target capture stamp
    simp only [State.onCapture, Capture.debounceExpiry, if_pos due, candidate] at same
    rw [same] at settled
    have stable := congrArg Line.qualifier settled
    rw [candidate] at stable
    cases stable
  | window i due =>
    cases run
    obtain ⟨count, expiry, counting, -⟩ := Capture.windowDue_iff.mp due
    refine State.ne_of_line (i := i) fun same => ?_
    simp only [State.onCapture, Capture.windowExpiry_of_due due, Capture.line_setLine_same] at same
    have quiet := congrArg Line.chatter same
    rw [counting] at quiet
    cases quiet
  | quiet i due =>
    obtain ⟨expiry, chattering, reached⟩ := Capture.quietDue_iff.mp due
    cases (quietExpiryEndsEpisode s i expiry chattering reached).symm.trans run
    refine State.ne_of_line (i := i) fun same => ?_
    have closed : SameButShedCount { s.capture.line i with chatter := .quiet } (s.capture.line i) :=
      same.subst (motive := fun m => SameButShedCount _ m) (Capture.setLine_handedWhen_line _ _ _ _ _)
    have quiet := congrArg Line.chatter closed
    rw [chattering] at quiet
    cases quiet
  | hold due =>
    cases run
    obtain ⟨x, runs, -⟩ := Timebase.holdDue_iff.mp due
    refine State.ne_of_timebase fun same => ?_
    simp only [State.onCapture, Capture.onTimebase_timebase, Timebase.endHold, if_pos due] at same
    have ended := congrArg Timebase.holdExpiry same
    rw [runs] at ended
    cases ended
  | loss due =>
    cases run
    refine State.ne_of_timebase fun same => ?_
    simp only [State.onCapture, Capture.onTimebase_timebase, Timebase.lose, if_pos due] at same
    have lost := congrArg Timebase.quality same
    rw [(Timebase.lossDue_iff.mp due).1] at lost
    cases lost
  | holdover due =>
    cases run
    refine State.ne_of_timebase fun same => ?_
    simp only [State.onCapture, Capture.onTimebase_timebase, Timebase.endHoldover, if_pos due] at same
    have freed := congrArg Timebase.quality same
    rw [(Timebase.holdoverDue_iff.mp due).1] at freed
    cases freed
  | release n claim room =>
    cases run
    obtain ⟨e, claim⟩ := Option.isSome_iff_exists.mp claim
    intro same
    have sequence := congrArg (fun u : State => u.capture.sequence) same
    simp [State.releaseStep, claim, room] at sequence
  | blockRead attaching late =>
    cases run
    refine State.ne_of_session ?_
    simp [attaching, readFails, late, State.raiseFault]
  | faultMessage faulted late =>
    cases run
    refine State.ne_of_session ?_
    simp [faulted, late]
  | @timer h v attached due =>
    cases run
    obtain ⟨x, runs, -⟩ := Attached.timerDue_iff.mp due
    rw [State.onHost_attached _ _ attached, if_pos due]
    refine State.ne_of_session fun same => ?_
    rw [attached] at same
    have stopped := congrArg (fun g : Attached => (g.vector v).timer) (Session.attached.inj same)
    simp only [Attached.send, Attached.vector_makeDue, Attached.vector_setVector, if_true] at stopped
    rw [Attached.vector, runs] at stopped
    cases stopped
  | commandRead attached reading late =>
    cases run
    refine State.ne_of_session ?_
    simp [attached, reading, readFails, late, State.raiseFault]
  | write attached first late =>
    cases run
    refine State.ne_of_session ?_
    simp [attached, first, late, State.raiseFault]
  | take attached free =>
    cases run
    intro same
    have reads := congrArg State.reads same
    simp [State.takeCommand, attached, free] at reads
  | replayRead attached engine span =>
    cases run
    rw [State.onHost_attached _ _ attached]
    exact State.ne_of_archiveEngine attached rfl (Attached.replayRead_moves engine _ _)
  | replayGrant attached engine grants =>
    cases run
    rw [State.replayGrant, State.onHost_attached _ _ attached]
    refine State.ne_of_archiveEngine attached rfl ?_
    rw [engine]
    simp only [grants, if_true]
    exact Attached.replayAdvance_moves _
  | verifyRead attached engine span =>
    cases run
    rw [State.onHost_attached _ _ attached]
    exact State.ne_of_archiveEngine attached rfl (Attached.verifyRead_moves engine _ _)

/-- Settles O3: each due event moves the field that made it due. -/
theorem dueEventsChangeTheState : Obligations.DueEventsChangeTheState := by
  unfold Obligations.DueEventsChangeTheState
  intro s c due
  obtain ⟨t, run, -⟩ := exec_host c s
  have own := mem_eventsDue.mp due
  exact ⟨t, run, own.changes run, (exec_continues run own.not_reset).elapsed⟩

/-! ### Events that find no cause -/

theorem State.onCapture_of_fixed {s : State} {f : Capture → Capture} (fixed : f s.capture = s.capture) : s.onCapture f = s := by
  rw [State.onCapture, fixed]

theorem State.onHost_of_fixed {s : State} {f : Attached → Attached} (fixed : ∀ h, s.host.session = .attached h → f h = h) :
    s.onHost f = s := by
  obtain ⟨h, attached, e⟩ | ⟨-, e⟩ := s.onHost_cases f
  · rw [e, fixed h attached, State.withHost, ← attached]
  · exact e

theorem Attached.timerDue_false {h : Attached} {v : VectorNo} {now : Nat} (later : ∀ x, (h.vectors.get v).timer = some x → now < x) :
    ¬ h.timerDue v now = true := fun due =>
  let ⟨x, runs, reached⟩ := Attached.timerDue_iff.mp due
  Nat.not_le.mpr (later x runs) reached

theorem Capture.edgeIsTo_iff (e : Edge) (level : Level) : edgeIsTo e level = true ↔ (e = .rising ↔ level = true) := by
  cases e <;> cases level <;> decide

/-- R44: a sample that is no pulse to be evaluated is recorded, and nothing else. -/
theorem Capture.syncSample_of_noPulse {c : Capture} {level : Level} (noPulse : ¬ SyncPulseAt c level) :
    c.syncSample level = { c with syncLevel := level } := by
  unfold Capture.syncSample
  split
  · rename_i same
    rw [← same]
  · rename_i changed
    rw [if_neg]
    rintro ⟨edge, enabled, set⟩
    exact noPulse ⟨changed, (Capture.edgeIsTo_iff _ _).mp edge, enabled, set⟩

/-- R66: a release step without a live claim, or for a ring that is full, is not due. -/
theorem State.releaseStep_of_notDue {s : State} {n : RingNo} (notDue : LiveClaimFor s.capture n → s.canTake n = false) :
    s.releaseStep n = s := by
  unfold State.releaseStep
  split
  · rfl
  · rename_i e claim
    rw [notDue (Capture.liveClaim_isSome.mp (by rw [claim]; rfl))]
    rfl

/-- A host command, or a BAD_KIND, whose read is not in flight is discarded (R129, R154). -/
theorem exec_discarded {s : State} {c : Instr} {read : Nat}
    (listed : (commandHeader c).isSome = true ∨ ∃ kind tag, c = .badKind kind ⟨read, tag⟩) (answers : c.answeredRead = some read)
    (r : ∀ h, ¬ ReadInFlight s read h) : exec c s = .next s := by
  have discarded : ∀ kind tag failure body, (Host.Outcome.next (s.runCommand read kind tag failure body) : Host.Outcome State Fault Refusal) =
      .next s := fun kind tag failure body => congrArg _ (State.runCommand_discarded r kind tag failure body)
  cases c with
  | badKind kind head =>
    cases answers
    simp only [exec, execBadKind]
    split
    · rfl
    · exact discarded _ _ _ _
  | configureLines _ _ | configureGroup _ _ _ _ _ | configureTimebase _ _ _ _ _ | setTime _ _ | getTime _ | snapshotLevels _ _
  | snapshotCounters _ _ _ | readStatistics _ _ _ | replay _ _ _ _ | verifyArchive _ _ _ | abort _ _ | setNotify _ _ _ _ =>
    cases answers
    exact discarded _ _ _ _
  | _ =>
    rcases listed with header | ⟨_, _, e⟩
    · cases header
    · cases e

/-- A read that does not fail leaves the session. -/
theorem readFails_badCompletion {read dueAt number now : Nat} :
    readFails (.badCompletion read) dueAt number now = true ↔ read = number ∧ now ≤ dueAt + 50000 := by
  simp [readFails]

/-- The 50 ms of a read that has not failed are not past. -/
theorem exec_readBusError_of_alive {s : State} {cause : ReadFailure}
    (alive : ∀ h address dueAt number, s.host.session = .attached h → h.command = .reading address dueAt number →
      readFails cause dueAt number s.capture.elapsed = false) : exec (.readBusError cause) s = .next s := by
  simp only [exec, execReadBusError]
  congr 1
  split
  · rename_i h attached
    split
    · rename_i reading
      rw [alive h _ _ _ attached reading]
      rfl
    all_goals rfl
  all_goals rfl

theorem exec_initBusError_of_alive {s : State} {cause : ReadFailure}
    (alive : ∀ address dueAt number, s.host.session = .attaching address dueAt number →
      readFails cause dueAt number s.capture.elapsed = false) : exec (.initBusError cause) s = .next s := by
  simp only [exec, execInitBusError]
  congr 1
  split
  · rename_i attaching
    rw [alive _ _ _ attaching]
    rfl
  all_goals rfl

/-- R129, R161: a block read that is not in flight, or is late, completes for nobody. -/
theorem State.blockReadInFlight_false {s : State} {read : Nat}
    (late : ∀ address dueAt, s.host.session = .attaching address dueAt read → dueAt + 50000 < s.capture.elapsed) :
    s.blockReadInFlight read = false := by
  unfold State.blockReadInFlight
  split
  · rename_i address dueAt number attaching
    by_contra inFlight
    simp only [Bool.not_eq_false, Bool.and_eq_true, decide_eq_true_eq] at inFlight
    obtain ⟨rfl, inTime⟩ := inFlight
    exact Nat.not_le.mpr (late address dueAt attaching) inTime
  all_goals rfl

/-- R126, R128: an issue with nothing due, or past its 50 ms. -/
theorem State.issueWrite_of_late {s : State}
    (session : ∀ h w rest, s.host.session = .attached h → h.due = w :: rest → w.dueAt + 50000 < s.capture.elapsed)
    (message : ∀ w, s.host.session = .faulted (some w) → w.dueAt + 50000 < s.capture.elapsed) : s.issueWrite = s := by
  have late : ∀ w : DueWrite, w.dueAt + 50000 < s.capture.elapsed → w.inTime s.capture.elapsed = false := fun w past =>
    decide_eq_false (Nat.not_le.mpr past)
  unfold State.issueWrite
  split
  · rename_i h attached
    split
    · rename_i w rest first
      rw [late w (session h w rest attached first)]
      rfl
    · rfl
  · rename_i w faulted
    rw [late w (message w faulted)]
    rfl
  all_goals rfl

theorem exec_writeBusError_of_alive {s : State}
    (alive : ∀ h w rest, s.host.session = .attached h → h.due = w :: rest → s.capture.elapsed < w.dueAt + 50000) :
    exec .writeBusError s = .next s := by
  simp only [exec, execWriteBusError]
  congr 1
  split
  · rename_i h attached
    split
    · rename_i w rest first
      rw [if_neg fun late => Nat.not_le.mpr (alive h w rest attached first) (timedOut_iff.mp late)]
    · rfl
  all_goals rfl

theorem exec_faultNotifyFailed_of_alive {s : State}
    (alive : ∀ w, s.host.session = .faulted (some w) → s.capture.elapsed < w.dueAt + 50000) : exec .faultNotifyFailed s = .next s := by
  simp only [exec, execFaultNotifyFailed]
  congr 1
  split
  · rename_i w faulted
    rw [if_neg fun late => Nat.not_le.mpr (alive w faulted) (timedOut_iff.mp late)]
  all_goals rfl

/-- Settles O15: each event tests for its cause, and has no effect where the test fails. -/
theorem eventsThatFindNoCauseHaveNoEffect : Obligations.EventsThatFindNoCauseHaveNoEffect := by
  unfold Obligations.EventsThatFindNoCauseHaveNoEffect
  refine ⟨?debounce, ?window, ?quiet, ?hold, ?loss, ?holdover, ?release, ?coalescing, ?sync, ?discarded, ?badRead, ?readTimeout, ?sample,
    ?block, ?blockTimeout, ?write, ?message, ?issue, ?replayRead, ?replayGrant, ?verifyRead⟩
  case debounce =>
    refine fun s i later => congrArg _ (State.onCapture_of_fixed (if_neg fun due => ?_))
    obtain ⟨level, target, capture, stamp, candidate, reached⟩ := Capture.debounceDue_iff.mp due
    exact Nat.not_le.mpr (later level target capture stamp candidate) reached
  case window =>
    refine fun s i later => congrArg _ (State.onCapture_of_fixed (if_neg fun due => ?_))
    obtain ⟨count, expiry, counting, reached⟩ := Capture.windowDue_iff.mp due
    exact Nat.not_le.mpr (later count expiry counting) reached
  case quiet =>
    refine fun s i later => congrArg _ (State.onCapture_of_fixed (if_neg fun due => ?_))
    obtain ⟨expiry, chattering, reached⟩ := Capture.quietDue_iff.mp due
    exact Nat.not_le.mpr (later expiry chattering) reached
  case hold =>
    refine fun s later => congrArg _ (State.onCapture_of_fixed ?_)
    rw [Capture.onTimebase, Timebase.endHold, if_neg fun due => ?_]
    obtain ⟨x, runs, reached⟩ := Timebase.holdDue_iff.mp due
    exact Nat.not_le.mpr (later x runs) reached
  case loss =>
    refine fun s later => congrArg _ (State.onCapture_of_fixed ?_)
    rw [Capture.onTimebase, Timebase.lose, if_neg fun due => ?_]
    obtain ⟨locked, x, last, reached⟩ := Timebase.lossDue_iff.mp due
    exact Nat.not_le.mpr (later locked x last) reached
  case holdover =>
    refine fun s later => congrArg _ (State.onCapture_of_fixed ?_)
    rw [Capture.onTimebase, Timebase.endHoldover, if_neg fun due => ?_]
    obtain ⟨holdover, x, entry, reached⟩ := Timebase.holdoverDue_iff.mp due
    exact Nat.not_le.mpr (later holdover x entry) reached
  case release =>
    intro s n notDue
    refine congrArg _ (State.releaseStep_of_notDue fun ⟨e, first, reached⟩ => ?_)
    rcases notDue with waits | ⟨r, ring, full⟩
    · exact absurd reached (Nat.not_le.mpr (waits e first))
    · exact Bool.eq_false_iff.mpr fun room => Nat.not_lt.mpr full (State.canTake_iff.mp room r ring)
  case coalescing =>
    exact fun s v later => congrArg _ (State.onHost_of_fixed fun h attached => if_neg (Attached.timerDue_false (later h attached)))
  case sync =>
    intro s level noPulse
    simp only [exec, execSyncPulse, State.onCapture, Capture.syncSample_of_noPulse noPulse]
  case discarded => exact fun s c read listed answers r => exec_discarded listed answers r
  case badRead =>
    refine fun s read r => exec_readBusError_of_alive fun h address dueAt number attached reading => ?_
    refine Bool.eq_false_iff.mpr fun fails => ?_
    obtain ⟨rfl, inTime⟩ := readFails_badCompletion.mp fails
    exact r h ⟨attached, address, dueAt, reading, inTime⟩
  case readTimeout =>
    refine fun s later => exec_readBusError_of_alive fun h address dueAt number attached reading => ?_
    exact Bool.eq_false_iff.mpr fun late => Nat.not_le.mpr (later h address dueAt number attached reading) (timedOut_iff.mp late)
  case sample => exact fun s i => congrArg _ (State.onCapture_of_fixed (f := Capture.rawChange i (s.capture.line i).raw) (if_pos rfl))
  case block =>
    intro s read b late
    constructor
    · simp only [exec, execBlockReadComplete, State.blockRead, State.blockReadInFlight_false late]
      rfl
    · refine exec_initBusError_of_alive fun address dueAt number attaching => Bool.eq_false_iff.mpr fun fails => ?_
      obtain ⟨rfl, inTime⟩ := readFails_badCompletion.mp fails
      exact Nat.not_le.mpr (late address dueAt attaching) inTime
  case blockTimeout =>
    refine fun s later => exec_initBusError_of_alive fun address dueAt number attaching => ?_
    exact Bool.eq_false_iff.mpr fun late => Nat.not_le.mpr (later address dueAt number attaching) (timedOut_iff.mp late)
  case write => exact fun s alive => exec_writeBusError_of_alive alive
  case message => exact fun s alive => exec_faultNotifyFailed_of_alive alive
  case issue => exact fun s session message => congrArg _ (State.issueWrite_of_late session message)
  case replayRead =>
    refine fun s notReading => congrArg _ (State.onHost_of_fixed fun h attached => ?_)
    unfold Attached.replayRead
    split
    · rename_i engine
      exact absurd engine (notReading h _ _ attached)
    all_goals rfl
  case replayGrant =>
    refine fun s noRing => congrArg _ (State.onHost_of_fixed fun h attached => ?_)
    split
    · rename_i x n copy engine
      have refused : ¬ s.grantsCopy n = true := fun grants => by
        obtain ⟨r, ring, -⟩ := State.grantsCopy_iff.mp grants
        simp only [State.attachedRing, attached] at ring
        cases (noRing h x n copy attached engine).symm.trans ring
      rw [if_neg refused]
    all_goals rfl
  case verifyRead =>
    refine fun s notVerifying => congrArg _ (State.onHost_of_fixed fun h attached => ?_)
    unfold Attached.verifyRead
    split
    · rename_i engine
      exact absurd engine (notVerifying h _ _ attached)
    all_goals rfl

end Sys2Proof.Machine
end

section
/-! What validation finds (R132, R159): the tests of each host command and of the initialisation block against the ranges that the
statements give, field by field. -/

namespace Sys2Proof.Machine

-- One declaration at a time: the check of the whole text then stays within its memory.
set_option Elab.async false

/-! ### The first field that fails -/

/-- The tests of consecutive fields, the first of which is field `first`, agree with what is asked of each field; no other field is
asked for anything. -/
structure TestsFields (first : Nat) (tests : List (Nat × Bool)) (ok : Nat → Prop) : Prop where
  indices : tests.map Prod.fst = List.range' first tests.length
  sound : tests.Forall fun t => t.2 = true ↔ ok t.1
  outside : ∀ k, k < first ∨ first + tests.length ≤ k → ok k

/-- Validation accepts where every field is in its range. -/
theorem TestsFields.accepts {first : Nat} {tests : List (Nat × Bool)} {ok : Nat → Prop} (t : TestsFields first tests ok)
    (all : ∀ k, ok k) : firstFailure tests = none :=
  firstFailure_none_of fun x member => (List.forall_iff_forall_mem.mp t.sound x member).mpr (all x.1)

/-- Validation names the first field that is out of its range. -/
theorem TestsFields.refuses {tests : List (Nat × Bool)} {ok : Nat → Prop} {k : Nat} (fails : ¬ ok k) (before : ∀ j, j < k → ok j) :
    ∀ {first : Nat}, TestsFields first tests ok → firstFailure tests = some k := by
  induction tests with
  | nil => exact fun {first} t => absurd (t.outside k (Nat.lt_or_ge k first)) fails
  | cons a rest ih =>
    intro first t
    obtain ⟨index, test⟩ := a
    obtain ⟨indices, sound, outside⟩ := t
    simp only [List.map_cons, List.length_cons, List.range'_succ, List.cons.injEq] at indices
    obtain ⟨rfl, indices⟩ := indices
    rw [List.forall_cons] at sound
    obtain ⟨head, sound⟩ := sound
    rw [firstFailure_cons]
    cases test with
    | true =>
      refine ih (first := index + 1) ⟨indices, sound, fun j outer => ?_⟩
      rcases Nat.lt_trichotomy j index with below | rfl | above
      · exact outside j (.inl below)
      · exact head.mp rfl
      · exact outside j (.inr (by rw [List.length_cons]; omega))
    | false =>
      have failsHere : ¬ ok index := fun holds => Bool.noConfusion (head.mpr holds)
      have atLeast : index ≤ k := Nat.le_of_not_lt fun below => fails (outside k (.inl below))
      have atMost : k ≤ index := Nat.le_of_not_lt fun above => failsHere (before index above)
      simp [Nat.le_antisymm atLeast atMost]

/-! ### What the single tests ask -/

theorem inRange_iff {low high n : Nat} : inRange low high n = true ↔ low ≤ n ∧ n ≤ high := by
  simp only [inRange, Bool.and_eq_true, decide_eq_true_eq]

theorem inRange_zero_iff {high n : Nat} : inRange 0 high n = true ↔ n ≤ high := by
  rw [inRange_iff]
  exact ⟨And.right, fun h => ⟨Nat.zero_le n, h⟩⟩

theorem isFlag_iff {b : Byte} : isFlag b = true ↔ b ≤ 1 := decide_eq_true_iff

theorem roleOfCode_isSome {b : Byte} : (roleOfCode b).isSome = true ↔ b ≤ 2 := by
  rw [BitVec.le_def]
  unfold roleOfCode
  split
  · simp [*]
  · simp [*]
  · simp [*]
  · rename_i n0 n1 n2
    have : b.toNat ≠ 0 ∧ b.toNat ≠ 1 ∧ b.toNat ≠ 2 := ⟨n0, n1, n2⟩
    simp
    omega

theorem reportOfCode_isSome {b : Byte} : (reportOfCode b).isSome = true ↔ b ≤ 3 := by
  rw [BitVec.le_def]
  unfold reportOfCode
  split
  · simp [*]
  · simp [*]
  · simp [*]
  · simp [*]
  · rename_i n0 n1 n2 n3
    have : b.toNat ≠ 0 ∧ b.toNat ≠ 1 ∧ b.toNat ≠ 2 ∧ b.toNat ≠ 3 := ⟨n0, n1, n2, n3⟩
    simp
    omega

theorem edgeOfCode_isSome {b : Byte} : (edgeOfCode b).isSome = true ↔ b ≤ 1 := by
  rw [BitVec.le_def]
  unfold edgeOfCode
  split
  · simp [*]
  · simp [*]
  · rename_i n0 n1
    have : b.toNat ≠ 0 ∧ b.toNat ≠ 1 := ⟨n0, n1⟩
    simp
    omega

/-- A mask names lines alone exactly when no bit from 48 up is set. -/
theorem lt_two_pow_48_iff {m : BitVec 64} : m.toNat < 2 ^ 48 ↔ ∀ b, 48 ≤ b → m.getLsbD b = false := by
  constructor
  · intro below b high
    exact Nat.testBit_lt_two_pow (below.trans_le (Nat.pow_le_pow_right (by decide) high))
  · exact fun clear => Nat.lt_pow_two_of_testBit _ fun b high => clear b high

/-! ### The host commands -/

/-- The tests of a host command, those that its `...Failure` takes in order. -/
def fieldTests : Instr → List (Nat × Bool)
  | .configureLines head p =>
    [tagTest head.tag, (2, decide (p.lineMask ≠ 0) && decide (p.lineMask.toNat < 2 ^ 48)), (3, (roleOfCode p.role).isSome),
     (4, isFlag p.invert), (5, (reportOfCode p.report).isSome), (6, inRange 0 200000 p.debounce.toNat),
     (7, decide (p.chatterLimit.toNat ≠ 1)), (8, inRange 1 60000 p.chatterWindow.toNat), (9, inRange 1 600000 p.quietTime.toNat),
     (10, inRange 0 7 p.group.toNat)]
  | .configureGroup head group cls ring enabled =>
    [tagTest head.tag, (2, inRange 0 7 group.toNat), (3, inRange 0 3 cls.toNat), (4, inRange 0 3 ring.toNat), (5, isFlag enabled)]
  | .configureTimebase head enable edge tolerance limit =>
    [tagTest head.tag, (2, isFlag enable), (3, (edgeOfCode edge).isSome), (4, inRange 1 50000 tolerance.toNat),
     (5, inRange 1 86400 limit.toNat)]
  | .setTime head value => [tagTest head.tag, (2, decide (value.toNat < 2 ^ 63))]
  | .getTime head | .abort head _ => [tagTest head.tag]
  | .snapshotLevels head address => [tagTest head.tag, addressTest address]
  | .snapshotCounters head groupMask clear => [tagTest head.tag, (2, decide (groupMask ≠ 0)), (3, isFlag clear)]
  | .readStatistics head address clear => [tagTest head.tag, addressTest address, (3, isFlag clear)]
  | .replay head first count ring =>
    [tagTest head.tag, (2, decide (first ≠ 0)), (3, inRange 1 16384 count.toNat), (4, inRange 0 3 ring.toNat)]
  | .verifyArchive head first count => [tagTest head.tag, (2, decide (first ≠ 0)), (3, inRange 1 16384 count.toNat)]
  | .setNotify head vector threshold delay =>
    [tagTest head.tag, (2, inRange 0 5 vector.toNat), (3, inRange 1 255 threshold.toNat), (4, inRange 0 65535 delay.toNat)]
  | _ => []

/-- Every host command is validated by its tests, for the read that it answers. -/
theorem exec_hostCommand {c : Instr} {kind : Byte} {tag : BitVec 16} {read : Nat} (header : commandHeader c = some (kind, tag))
    (answers : c.answeredRead = some read) (s : State) :
    ∃ body, exec c s = .next (s.runCommand read kind tag (firstFailure (fieldTests c)) body) := by
  cases c with
  | configureLines _ _ | configureGroup _ _ _ _ _ | configureTimebase _ _ _ _ _ | setTime _ _ | getTime _ | snapshotLevels _ _
  | snapshotCounters _ _ _ | readStatistics _ _ _ | replay _ _ _ _ | verifyArchive _ _ _ | abort _ _ | setNotify _ _ _ _ =>
    cases header
    cases answers
    exact ⟨_, rfl⟩
  | _ => cases header

/-- Nothing is asked of a field number that a host command does not have. -/
theorem FieldOk_outside {c : Instr} (host : (commandHeader c).isSome = true) {k : Nat} (outer : k < 1 ∨ 1 + (fieldTests c).length ≤ k) :
    FieldOk c k := by
  cases c with
  | configureLines head p =>
    have beyond : linesFieldOk p k := by
      unfold linesFieldOk
      split <;> simp [fieldTests] at outer ⊢
    unfold FieldOk
    split <;> simp_all [fieldTests]
  | configureGroup _ _ _ _ _ | configureTimebase _ _ _ _ _ | setTime _ _ | getTime _ | snapshotLevels _ _
  | snapshotCounters _ _ _ | readStatistics _ _ _ | replay _ _ _ _ | verifyArchive _ _ _ | abort _ _ | setNotify _ _ _ _ =>
    unfold FieldOk
    split <;> simp_all [fieldTests]
  | _ => cases host

theorem addressTest_iff {address : BitVec 64} : (addressTest address).2 = true ↔ 8 ∣ address.toNat := by
  rw [Nat.dvd_iff_mod_eq_zero]
  exact decide_eq_true_iff

theorem lineMaskTest_iff {m : BitVec 64} : (decide (m ≠ 0) && decide (m.toNat < 2 ^ 48)) = true ↔
    m ≠ 0 ∧ ∀ b, 48 ≤ b → m.getLsbD b = false := by
  rw [Bool.and_eq_true, decide_eq_true_iff, decide_eq_true_iff, lt_two_pow_48_iff]

theorem limitTest_iff {limit : Byte} : decide (limit.toNat ≠ 1) = true ↔ limit ≠ 1 := by
  rw [decide_eq_true_iff, ne_eq, ne_eq, ← BitVec.toNat_inj]
  rfl

theorem thresholdTest_iff {threshold : Byte} : inRange 1 255 threshold.toNat = true ↔ 1 ≤ threshold := by
  rw [inRange_iff]
  exact ⟨And.left, fun h => ⟨h, Nat.le_of_lt_succ threshold.isLt⟩⟩

theorem delayTest_iff {delay : BitVec 16} : inRange 0 65535 delay.toNat = true ↔ True := by
  rw [inRange_zero_iff]
  exact iff_of_true (Nat.le_of_lt_succ delay.isLt) trivial

/-- The tests of a host command agree with the ranges of its fields. -/
theorem fieldTests_sound {c : Instr} (host : (commandHeader c).isSome = true) : TestsFields 1 (fieldTests c) (FieldOk c) := by
  cases c with
  | configureLines head p =>
    exact ⟨rfl, ⟨decide_eq_true_iff, lineMaskTest_iff, roleOfCode_isSome, isFlag_iff, reportOfCode_isSome, inRange_zero_iff,
      limitTest_iff, inRange_iff, inRange_iff, inRange_zero_iff⟩, fun k => FieldOk_outside host⟩
  | configureGroup head group cls ring enabled =>
    exact ⟨rfl, ⟨decide_eq_true_iff, inRange_zero_iff, inRange_zero_iff, inRange_zero_iff, isFlag_iff⟩, fun k => FieldOk_outside host⟩
  | configureTimebase head enable edge tolerance limit =>
    exact ⟨rfl, ⟨decide_eq_true_iff, isFlag_iff, edgeOfCode_isSome, inRange_iff, inRange_iff⟩, fun k => FieldOk_outside host⟩
  | setTime head value => exact ⟨rfl, ⟨decide_eq_true_iff, decide_eq_true_iff⟩, fun k => FieldOk_outside host⟩
  | getTime head => exact ⟨rfl, decide_eq_true_iff, fun k => FieldOk_outside host⟩
  | snapshotLevels head address => exact ⟨rfl, ⟨decide_eq_true_iff, addressTest_iff⟩, fun k => FieldOk_outside host⟩
  | snapshotCounters head groupMask clear =>
    exact ⟨rfl, ⟨decide_eq_true_iff, decide_eq_true_iff, isFlag_iff⟩, fun k => FieldOk_outside host⟩
  | readStatistics head address clear =>
    exact ⟨rfl, ⟨decide_eq_true_iff, addressTest_iff, isFlag_iff⟩, fun k => FieldOk_outside host⟩
  | replay head first count ring =>
    exact ⟨rfl, ⟨decide_eq_true_iff, decide_eq_true_iff, inRange_iff, inRange_zero_iff⟩, fun k => FieldOk_outside host⟩
  | verifyArchive head first count =>
    exact ⟨rfl, ⟨decide_eq_true_iff, decide_eq_true_iff, inRange_iff⟩, fun k => FieldOk_outside host⟩
  | abort head target => exact ⟨rfl, decide_eq_true_iff, fun k => FieldOk_outside host⟩
  | setNotify head vector threshold delay =>
    exact ⟨rfl, ⟨decide_eq_true_iff, inRange_zero_iff, thresholdTest_iff, delayTest_iff⟩, fun k => FieldOk_outside host⟩
  | _ => cases host

/-- An accepted host command fails no test. -/
theorem firstFailure_of_accepted {c : Instr} (host : (commandHeader c).isSome = true) (accepted : Accepted c) :
    firstFailure (fieldTests c) = none :=
  (fieldTests_sound host).accepts accepted

/-- A host command that fails no test is carried out with its read done. -/
theorem State.runCommand_carried {s : State} {read : Nat} {h : Attached} (r : ReadInFlight s read h) {failure : Option Nat}
    (accepted : failure = none) (kind : Byte) (tag : BitVec 16) (body : State → State) :
    s.runCommand read kind tag failure body = body (s.withHost h.readDone) := by
  rw [accepted]
  exact State.runCommand_accepted r kind tag body

/-- Settles O39: an undefined kind is refused at once, and a defined one by its first field that fails (R132). -/
theorem validationRefuses : Obligations.ValidationRefuses := by
  unfold Obligations.ValidationRefuses
  refine ⟨fun s h read kind tag r undefined => ?_, fun s h read c kind tag k r answers header fails before => ?_⟩
  · have notDefined : ¬ definedKind kind = true := by
      simp only [definedKind, Bool.and_eq_true, decide_eq_true_eq]
      omega
    simp only [exec, execBadKind, if_neg notDefined]
    rw [State.runCommand_carried r rfl, State.complete_readDone, bytesOf_zero]
    rfl
  · obtain ⟨body, carried⟩ := exec_hostCommand header answers s
    rw [carried, (fieldTests_sound (by rw [header]; rfl)).refuses fails before, State.runCommand_refused r, bytesOf_zero]

/-! ### The result bytes of the completions (R135 to R148, R160) -/

/-- The quality field of results and records (R177, R178). -/
theorem Quality.code_setWidth (q : Quality) : q.code.setWidth 8 = BitVec.ofNat 8 (qualityNumber q) := by cases q <;> rfl

theorem ResetCause.code_setWidth (cause : ResetCause) : cause.code.setWidth 8 = BitVec.ofNat 8 (resetNumber cause) := by
  cases cause <;> rfl

theorem bytesOf_horizonResult (horizon : Nat) : bytesOf 24 (horizonResult horizon) = bytesOf 4 (BitVec.ofNat 32 horizon) ++ zeros 20 :=
  bytesOf_placeAt_front 4 20 (BitVec.ofNat 32 horizon) (by decide) (by decide)

theorem bytesOf_qualityResult (q : Quality) : bytesOf 24 (qualityResult q) = [BitVec.ofNat 8 (qualityNumber q)] ++ zeros 23 := by
  rw [← q.code_setWidth, qualityResult, bytesOf_placeAt_front 1 23 _ (by decide) (by decide), bytesOf, List.range_one, List.map_singleton,
    fieldAt_self]

theorem bytesOf_timeResult (t : Timebase) (holdRemaining : Nat) : bytesOf 24 (timeResult t holdRemaining) =
    bytesOf 8 (word64 t.timeValue) ++ bytesOf 4 t.generation ++ bytesOf 4 t.acceptedRun ++ bytesOf 4 (BitVec.ofNat 32 holdRemaining) ++
      [BitVec.ofNat 8 (qualityNumber t.quality)] ++ zeros 3 := by
  rw [← t.quality.code_setWidth]
  unfold timeResult bytesOf
  rw [range_24]
  simp (disch := omega) [fieldAt_placeAt_below, fieldAt_placeAt_above, fieldAt_placeAt_byte, List.range_succ, fieldAt_self, zeros]

theorem bytesOf_stagedResult (staged shed : Nat) : bytesOf 24 (stagedResult staged shed) =
    bytesOf 2 (BitVec.ofNat 16 staged) ++ bytesOf 2 (BitVec.ofNat 16 shed) ++ zeros 20 := by
  unfold stagedResult bytesOf
  rw [range_24]
  simp (disch := omega) [fieldAt_placeAt_below, fieldAt_placeAt_above, fieldAt_placeAt_byte, List.range_succ, zeros]

theorem bytesOf_replayResult (first delivered failures : Nat) : bytesOf 24 (replayResult first delivered failures) =
    bytesOf 8 (word64 first) ++ bytesOf 4 (BitVec.ofNat 32 delivered) ++ bytesOf 4 (BitVec.ofNat 32 failures) ++ zeros 8 := by
  unfold replayResult bytesOf
  rw [range_24]
  simp (disch := omega) [fieldAt_placeAt_below, fieldAt_placeAt_above, fieldAt_placeAt_byte, List.range_succ, zeros]

theorem bytesOf_verifyResult (first covered failures : Nat) (crc : BitVec 32) : bytesOf 24 (verifyResult first covered failures crc) =
    bytesOf 8 (word64 first) ++ bytesOf 4 (BitVec.ofNat 32 covered) ++ bytesOf 4 (BitVec.ofNat 32 failures) ++ bytesOf 4 crc ++
      zeros 4 := by
  unfold verifyResult bytesOf
  rw [range_24]
  simp (disch := omega) [fieldAt_placeAt_below, fieldAt_placeAt_above, fieldAt_placeAt_byte, List.range_succ, zeros]

theorem bytesOf_attachedResult (firstLive : Nat) (t : Timebase) (cause : ResetCause) : bytesOf 24 (attachedResult firstLive t cause) =
    bytesOf 8 (word64 firstLive) ++ bytesOf 4 t.generation ++
      [BitVec.ofNat 8 (qualityNumber t.quality), BitVec.ofNat 8 (resetNumber cause)] ++ zeros 10 := by
  rw [← t.quality.code_setWidth, ← cause.code_setWidth]
  unfold attachedResult bytesOf
  rw [range_24]
  simp (disch := omega) [fieldAt_placeAt_below, fieldAt_placeAt_above, fieldAt_placeAt_byte, List.range_succ, fieldAt_self, zeros]

/-! ### The initialisation block (R159) -/

/-- The tests of the block, in the order in which they are taken. -/
def blockTests (b : InitBlock) : List (Nat × Bool) :=
  [(0, decide (b.version = 1)),
    (1, decide (b.commandBase.toNat % 64 = 0)),
    (2, isRingSize 16 4096 b.commandSize.toNat),
    (3, decide (b.completionBase.toNat % 32 = 0)),
    (4, isRingSize 16 4096 b.completionSize.toNat)] ++
   eventRingTests b 0 ++ eventRingTests b 1 ++ eventRingTests b 2 ++ eventRingTests b 3 ++
   [(13, systemRingTest b)] ++
   vectorTests b 0 ++ vectorTests b 1 ++ vectorTests b 2 ++ vectorTests b 3 ++ vectorTests b 4 ++ vectorTests b 5

theorem blockFailure_eq (b : InitBlock) : blockFailure b = firstFailure (blockTests b) := rfl

/-- A power of two shares no bit with its predecessor. -/
theorem isRingSize_iff {low high : Nat} (positive : 1 ≤ low) {size : BitVec 32} :
    isRingSize low high size.toNat = true ↔ IsRingSize low high size := by
  rw [isRingSize, Bool.and_eq_true, inRange_iff, decide_eq_true_iff, and_assoc]
  refine and_congr_right fun atLeast => and_congr_right fun _ => ?_
  exact Nat.and_sub_one_eq_zero_iff_isPowerOfTwo (by omega)

theorem alignedTest_iff {k : Nat} {base : BitVec 64} : decide (base.toNat % k = 0) = true ↔ k ∣ base.toNat := by
  rw [decide_eq_true_iff, Nat.dvd_iff_mod_eq_zero]

/-- A test that an absent ring passes. -/
theorem absentOr_iff {absent ok : Prop} [Decidable absent] {test : Bool} (sound : test = true ↔ ok) :
    (decide absent || test) = true ↔ (¬ absent → ok) := by
  rw [Bool.or_eq_true, decide_eq_true_iff, or_iff_not_imp_left, sound]

section
variable (b : InitBlock)

theorem blockFieldOk_version : BlockFieldOk b 0 ↔ b.version = 1 := by
  unfold BlockFieldOk
  exact ⟨fun h => h.1 rfl, fun h => ⟨fun _ => h, nofun, nofun, nofun, nofun, fun n e => by omega, fun n e => by omega, nofun,
    fun v e => by omega⟩⟩

theorem blockFieldOk_commandBase : BlockFieldOk b 1 ↔ 64 ∣ b.commandBase.toNat := by
  unfold BlockFieldOk
  exact ⟨fun h => h.2.1 rfl, fun h => ⟨nofun, fun _ => h, nofun, nofun, nofun, fun n e => by omega, fun n e => by omega, nofun,
    fun v e => by omega⟩⟩

theorem blockFieldOk_commandSize : BlockFieldOk b 2 ↔ IsRingSize 16 4096 b.commandSize := by
  unfold BlockFieldOk
  exact ⟨fun h => h.2.2.1 rfl, fun h => ⟨nofun, nofun, fun _ => h, nofun, nofun, fun n e => by omega, fun n e => by omega, nofun,
    fun v e => by omega⟩⟩

theorem blockFieldOk_completionBase : BlockFieldOk b 3 ↔ 32 ∣ b.completionBase.toNat := by
  unfold BlockFieldOk
  exact ⟨fun h => h.2.2.2.1 rfl, fun h => ⟨nofun, nofun, nofun, fun _ => h, nofun, fun n e => by omega, fun n e => by omega, nofun,
    fun v e => by omega⟩⟩

theorem blockFieldOk_completionSize : BlockFieldOk b 4 ↔ IsRingSize 16 4096 b.completionSize := by
  unfold BlockFieldOk
  exact ⟨fun h => h.2.2.2.2.1 rfl, fun h => ⟨nofun, nofun, nofun, nofun, fun _ => h, fun n e => by omega, fun n e => by omega, nofun,
    fun v e => by omega⟩⟩

theorem blockFieldOk_eventBase (n : RingNo) : BlockFieldOk b (5 + 2 * n.val) ↔
    ((b.eventRings.get n).size ≠ 0 → 32 ∣ (b.eventRings.get n).base.toNat) := by
  unfold BlockFieldOk
  refine ⟨fun ⟨_, _, _, _, _, base, _⟩ => base n rfl, fun h => ?_⟩
  refine ⟨fun e => ?_, fun e => ?_, fun e => ?_, fun e => ?_, fun e => ?_, fun m e => ?_, fun m e => ?_, fun e => ?_, fun v e => ?_⟩
  case refine_6 =>
    obtain rfl : n = m := Fin.ext (by omega)
    exact h
  all_goals omega

theorem blockFieldOk_eventSize (n : RingNo) : BlockFieldOk b (6 + 2 * n.val) ↔
    ((b.eventRings.get n).size ≠ 0 → IsRingSize 16 65536 (b.eventRings.get n).size) := by
  unfold BlockFieldOk
  refine ⟨fun ⟨_, _, _, _, _, _, size, _⟩ => size n rfl, fun h => ?_⟩
  refine ⟨fun e => ?_, fun e => ?_, fun e => ?_, fun e => ?_, fun e => ?_, fun m e => ?_, fun m e => ?_, fun e => ?_, fun v e => ?_⟩
  case refine_7 =>
    obtain rfl : n = m := Fin.ext (by omega)
    exact h
  all_goals omega

theorem blockFieldOk_systemRing : BlockFieldOk b 13 ↔ ∃ n : RingNo, b.systemRing.toNat = n.val ∧ (b.eventRings.get n).size ≠ 0 := by
  unfold BlockFieldOk
  exact ⟨fun ⟨_, _, _, _, _, _, _, ring, _⟩ => ring rfl, fun h => ⟨nofun, nofun, nofun, nofun, nofun, fun n e => by omega,
    fun n e => by omega, fun _ => h, fun v e => by omega⟩⟩

theorem blockFieldOk_threshold (v : VectorNo) : BlockFieldOk b (16 + 4 * v.val) ↔ 1 ≤ (b.vectors.get v).threshold.toNat := by
  unfold BlockFieldOk
  refine ⟨fun ⟨_, _, _, _, _, _, _, _, threshold⟩ => threshold v rfl, fun h => ?_⟩
  refine ⟨fun e => ?_, fun e => ?_, fun e => ?_, fun e => ?_, fun e => ?_, fun m e => ?_, fun m e => ?_, fun e => ?_, fun w e => ?_⟩
  case refine_9 =>
    obtain rfl : v = w := Fin.ext (by omega)
    exact h
  all_goals omega

/-- A field number that asks for nothing. -/
theorem blockFieldOk_free {k : Nat} (free : 14 ≤ k) (notThreshold : ∀ v : VectorNo, k ≠ 16 + 4 * v.val) : BlockFieldOk b k := by
  unfold BlockFieldOk
  refine ⟨fun e => ?_, fun e => ?_, fun e => ?_, fun e => ?_, fun e => ?_, fun m e => ?_, fun m e => ?_, fun e => ?_, fun w e =>
    absurd e (notThreshold w)⟩
  all_goals omega

theorem systemRingTest_iff : systemRingTest b = true ↔
    ∃ n : RingNo, b.systemRing.toNat = n.val ∧ (b.eventRings.get n).size ≠ 0 := by
  rw [systemRingTest, Bool.and_eq_true, inRange_zero_iff, decide_eq_true_iff]
  constructor
  · rintro ⟨range, present⟩
    have val : (Fin.ofNat 4 b.systemRing.toNat).val = b.systemRing.toNat := Nat.mod_eq_of_lt (by omega)
    exact ⟨_, val.symm, present⟩
  · rintro ⟨n, names, present⟩
    rw [names, Fin.ofNat_val_eq_self]
    exact ⟨by omega, present⟩

theorem eventRingTests_sound (n : RingNo) : (eventRingTests b n).Forall fun t => t.2 = true ↔ BlockFieldOk b t.1 := by
  exact ⟨(absentOr_iff alignedTest_iff).trans (blockFieldOk_eventBase b n).symm,
    (absentOr_iff (isRingSize_iff (by decide))).trans (blockFieldOk_eventSize b n).symm⟩

theorem vectorTests_sound (v : VectorNo) : (vectorTests b v).Forall fun t => t.2 = true ↔ BlockFieldOk b t.1 := by
  refine ⟨iff_of_true rfl (blockFieldOk_free b (by omega) fun w => by omega),
    iff_of_true rfl (blockFieldOk_free b (by omega) fun w => by omega), ?_, ?_⟩
  · simp only [blockFieldOk_threshold, inRange_iff]
    exact ⟨And.left, fun h => ⟨h, Nat.le_of_lt_succ (b.vectors.get v).threshold.isLt⟩⟩
  · refine iff_of_true (inRange_zero_iff.mpr (Nat.le_of_lt_succ (b.vectors.get v).delay.isLt)) ?_
    exact blockFieldOk_free b (by omega) fun w => by omega

/-- The tests of the block agree with what R159 asks of its fields. -/
theorem blockTests_sound : TestsFields 0 (blockTests b) (BlockFieldOk b) := by
  refine ⟨rfl, ?_, fun k outer => ?_⟩
  · have front : [(0, decide (b.version = 1)), (1, decide (b.commandBase.toNat % 64 = 0)), (2, isRingSize 16 4096 b.commandSize.toNat),
        (3, decide (b.completionBase.toNat % 32 = 0)), (4, isRingSize 16 4096 b.completionSize.toNat)].Forall
        fun t => t.2 = true ↔ BlockFieldOk b t.1 := by
      exact ⟨decide_eq_true_iff.trans (blockFieldOk_version b).symm, alignedTest_iff.trans (blockFieldOk_commandBase b).symm,
        (isRingSize_iff (by decide)).trans (blockFieldOk_commandSize b).symm,
        alignedTest_iff.trans (blockFieldOk_completionBase b).symm,
        (isRingSize_iff (by decide)).trans (blockFieldOk_completionSize b).symm⟩
    have systemRing : [(13, systemRingTest b)].Forall fun t => t.2 = true ↔ BlockFieldOk b t.1 :=
      (systemRingTest_iff b).trans (blockFieldOk_systemRing b).symm
    simp only [blockTests, List.forall_append, eventRingTests_sound, vectorTests_sound, front, systemRing, and_self]
  · have beyond : 38 ≤ k := by
      have length : (blockTests b).length = 38 := rfl
      omega
    exact blockFieldOk_free b (by omega) fun v => by omega

end

theorem slotAddress_zero (base : BitVec 64) (entrySize : Nat) : slotAddress base entrySize 0 = base := by
  rw [slotAddress, Nat.zero_mul, Nat.add_zero, if_pos base.isLt, BitVec.ofNat_toNat, BitVec.setWidth_eq]

/-- R159, R160: the block read in flight, by what its validation finds. -/
theorem exec_blockReadComplete {s : State} {address : BitVec 64} {dueAt read : Nat} (b : InitBlock)
    (attaching : s.host.session = .attaching address dueAt read) (inTime : s.capture.elapsed ≤ dueAt + 50000) :
    exec (.blockReadComplete ⟨read, b⟩) s = .next (match blockFailure b with
      | some index => s.initInvalid index
      | none => s.sessionAttached b) := by
  have inFlight : s.blockReadInFlight read = true := by
    simp only [State.blockReadInFlight, attaching, decide_true, Bool.true_and, decide_eq_true_eq]
    exact inTime
  simp only [exec, execBlockReadComplete, State.blockRead, inFlight, if_true] <;> rfl

/-- Settles O50: validation decides between INIT_INVALID and the session that the block sets up. -/
theorem blockReadAttachesOrFaults : Obligations.BlockReadAttachesOrFaults := by
  unfold Obligations.BlockReadAttachesOrFaults
  intro s b address dueAt read attaching inTime
  rw [exec_blockReadComplete b attaching inTime, blockFailure_eq]
  refine ⟨fun k _ fails before => ?_, fun valid => ?_⟩
  · rw [(blockTests_sound b).refuses fails before]
    simp only [State.initInvalid, State.raiseFault_attaching s _ attaching]
  · have accepted := (blockTests_sound b).accepts valid
    rw [accepted]
    have size : 16 ≤ b.completionSize.toNat := ((blockFieldOk_completionSize b).mp (valid 4)).1
    have first : (0 + 1) % b.completionSize.toNat = 1 := Nat.mod_eq_of_lt (by omega)
    obtain ⟨systemRing, names, -⟩ := (blockFieldOk_systemRing b).mp (valid 13)
    refine ⟨(Attached.ofBlock b).handCompletion (attachedCompletion s.capture s.host.resetCause) s.capture.elapsed, rfl, rfl, ?_,
      fun n => Attached.ofBlock_eventRing b n, ?_, fun v => Attached.ofBlock_vector b v, rfl, rfl, ?_⟩
    · show HostRing.claim (.fresh b.completionBase b.completionSize.toNat) = _
      simp only [HostRing.claim, HostRing.fresh, first, HostRing.mk.injEq, true_and]
      exact if_neg (by omega)
    · show b.systemRing.toNat % 4 = b.systemRing.toNat
      exact Nat.mod_eq_of_lt (by omega)
    · rw [Attached.handCompletion_eq]
      simp only [Attached.completed, Attached.ofBlock, HostRing.fresh, slotAddress_zero, attachedCompletion, bytesOf_attachedResult]
      rfl

end Sys2Proof.Machine
end

section
/-! Proofs about the register window, the session and the link (Chapters 7, 9, 10 and 11). -/

namespace Sys2Proof.Machine

-- One declaration at a time: the check of the whole text then stays within its memory.
set_option Elab.async false

/-! ### The session controller -/

/-- Settles O52: the three ends of a session act on the host side alone. -/
theorem sessionEnds : Obligations.SessionEnds := fun _ _ => ⟨rfl, rfl, rfl⟩

/-- R156: the two INIT_ADDR registers side by side. -/
theorem HostSide.initAddress_eq (h : HostSide) :
    h.initAddress = BitVec.ofNat 64 (h.initAddrHi.toNat * 2 ^ 32 + h.initAddrLo.toNat) := by
  refine BitVec.eq_of_toNat_eq ?_
  have high := h.initAddrHi.isLt
  have low := h.initAddrLo.isLt
  rw [HostSide.initAddress, BitVec.toNat_append, ← Nat.shiftLeft_add_eq_or_of_lt low, Nat.shiftLeft_eq, BitVec.toNat_ofNat,
    Nat.mod_eq_of_lt (by omega)]

/-- Settles O49: an ATTACH looks at the session state alone. -/
theorem attachBeginsInDetached : Obligations.AttachBeginsInDetached := by
  unfold Obligations.AttachBeginsInDetached
  intro s
  refine ⟨fun detached => ?_, fun other => ?_⟩
  · simp only [exec, execAttach, State.attach, detached, HostSide.initAddress_eq]
  · simp only [exec, execAttach, State.attach]
    split
    · rename_i detached
      exact absurd detached other
    all_goals rfl

theorem Session.isDetached_iff {x : Session} : x.isDetached = true ↔ x = .detached :=
  ⟨Session.eq_detached, fun e => by rw [e]; rfl⟩

/-! ### Bus errors (R127, R128, R163) -/

/-- A read ends in a bus error by a bad completion in time, or by its timeout. -/
theorem readFails_of {cause : ReadFailure} {dueAt read now : Nat}
    (h : (cause = .badCompletion read ∧ now ≤ dueAt + 50000) ∨ (cause = .timeout ∧ dueAt + 50000 ≤ now)) :
    readFails cause dueAt read now = true := by
  obtain ⟨rfl, inTime⟩ | ⟨rfl, late⟩ := h
  · exact readFails_badCompletion.mpr ⟨rfl, inTime⟩
  · exact timedOut_iff.mpr late

/-- Settles O51: each bus error finds what it is the end of, and faults the session. -/
theorem busErrorsFault : Obligations.BusErrorsFault := by
  unfold Obligations.BusErrorsFault
  refine ⟨fun s address dueAt read cause attaching fails => ?_, fun s h address dueAt read cause attached reading fails => ?_,
    fun s h w rest attached first late => ?_, fun s w faulted late => ?_⟩
  · simp only [exec, execInitBusError, attaching, readFails_of fails, if_true, State.raiseFault_attaching s _ attaching]
  · simp only [exec, execReadBusError, attached, reading, readFails_of fails, if_true, State.raiseFault_attached s _ attached]
  · simp only [exec, execWriteBusError, attached, first, timedOut_iff.mpr late, if_true, State.raiseFault_attached s _ attached]
  · simp only [exec, execFaultNotifyFailed, faulted, timedOut_iff.mpr late, if_true]

/-! ### Memory writes and messages (R126, R142, R169 to R171) -/

/-- R126: the issue of the first due write of a session, within its 50 ms. -/
theorem exec_memoryWriteIssue {s : State} {h : Attached} {w : DueWrite} {rest : List DueWrite} (attached : s.host.session = .attached h)
    (first : h.due = w :: rest) (inTime : s.capture.elapsed ≤ w.dueAt + 50000) :
    exec .memoryWriteIssue s = .next { s.withHost ({ h with due := rest }.afterIssue w.source s.capture.elapsed)
      with link := { address := w.address, data := w.data } :: s.link } := by
  have issued : w.inTime s.capture.elapsed = true := decide_eq_true inTime
  simp only [exec, execMemoryWriteIssue, State.issueWrite, attached, first, issued, if_true]
  rfl

/-- Settles O45: what follows an issue depends on what its write carries. -/
theorem writesAndMessagesGoOut : Obligations.WritesAndMessagesGoOut := by
  unfold Obligations.WritesAndMessagesGoOut
  refine ⟨fun s h w rest v attached first inTime posted => ?_, fun s h w rest kind tag attached first inTime buffer executing => ?_,
    fun s h w rest v attached first inTime message => ?_, fun s w faulted inTime => ?_, fun s h v x attached runs reached => ?_⟩
  · have post : { h with due := rest }.afterIssue w.source s.capture.elapsed = Attached.post { h with due := rest } v s.capture.elapsed := by
      obtain ⟨source, number⟩ | ⟨n, source, number⟩ := posted
      · rw [source, show v = 0 from Fin.ext number]
        rfl
      · rw [source, show v = ringVector n from Fin.ext number]
        rfl
    rw [exec_memoryWriteIssue attached first inTime, post, Attached.post_eq]
  · rw [exec_memoryWriteIssue attached first inTime, buffer]
    simp only [Attached.afterIssue, executing, Attached.handCompletion_eq, bytesOf_zero]
    rfl
  · rw [exec_memoryWriteIssue attached first inTime, message]
    rfl
  · have issued : w.inTime s.capture.elapsed = true := decide_eq_true inTime
    simp only [exec, execMemoryWriteIssue, State.issueWrite, faulted, issued, if_true, DueWrite.onLink]
  · have due : h.timerDue v s.capture.elapsed = true := Attached.timerDue_iff.mpr ⟨x, runs, reached⟩
    simp only [exec, execCoalescingTimerExpiry, State.onHost_attached _ _ attached, due, if_true, Attached.send_eq]

/-! ### Index writes (R117 to R119) -/

/-- R119: a head write is valid from the consumer index forward to the producer index. -/
theorem HostRing.validHead_eq (r : HostRing) (value : Nat) : r.validHead value =
    decide (value < r.size ∧ (value + r.size - r.consumer) % r.size ≤ (r.producer + r.size - r.consumer) % r.size) := by
  rw [Bool.decide_and]
  rfl

/-- Settles O46: a head write is judged by its ring, and arms that ring's vector. -/
theorem indexWrites : Obligations.IndexWrites := by
  unfold Obligations.IndexWrites
  refine ⟨fun s value n outside => ?_, fun s h value attached => ?_, fun s h value n c v ring moved attached which => ?_⟩
  · have ignored : ∀ {f : State}, (∀ h, s.host.session ≠ .attached h) → f = s → (Host.Outcome.next f : Host.Outcome State Fault Refusal) =
      .next s := fun _ e => congrArg _ e
    refine ⟨ignored outside ?_, ignored outside ?_, ignored outside ?_⟩
    · unfold State.writeCmdTail
      split
      · exact absurd (by assumption) (outside _)
      all_goals rfl
    · unfold State.writeCplHead
      split
      · exact absurd (by assumption) (outside _)
      all_goals rfl
    · unfold State.writeEvtHead
      split
      · exact absurd (by assumption) (outside _)
      all_goals rfl
  · simp only [exec, execCmdTail, State.writeCmdTail, attached, State.raiseFault_attached s _ attached]
  · obtain ⟨rfl, number, rfl, rfl⟩ | ⟨rfl, number, present, rfl⟩ := which
    · obtain rfl : v = 0 := Fin.ext number
      simp only [exec, execCplHead, State.writeCplHead, attached, HostRing.validHead_eq, Attached.arm_eq,
        State.raiseFault_attached s _ attached, Option.any_some]
    · obtain rfl : v = ringVector n := Fin.ext number
      have looked : h.eventRing n = ring := present.symm
      cases ring with
      | none => simp [exec, execEvtHead, State.writeEvtHead, attached, looked, State.raiseFault_attached s _ attached]
      | some r =>
        simp only [exec, execEvtHead, State.writeEvtHead, attached, looked, HostRing.validHead_eq, Attached.arm_eq,
          State.raiseFault_attached s _ attached, Option.any_some, Option.map_some]

/-! ### The register window (R117, R156, R157, R176, R177) -/

/-- An offset is the register's whose offset has its number. -/
theorem offset_eq {offset : BitVec 12} {k : Nat} (named : offset.toNat = k) : offset = BitVec.ofNat 12 k := by
  rw [← named, BitVec.ofNat_toNat, BitVec.setWidth_eq]

/-- R176: a write of a whole register, by its offset. -/
theorem exec_registerWrite_whole (s : State) (offset : BitVec 12) (value : BitVec 32) :
    exec (.registerWrite offset value 0xF#4) s =
      if offset = 0x010 ∧ s.host.session = .detached then .next { s with host := { s.host with initAddrLo := value } }
      else if offset = 0x014 ∧ s.host.session = .detached then .next { s with host := { s.host with initAddrHi := value } }
      else if offset = 0x008 ∧ value = 1 then exec .attach s
      else if offset = 0x008 ∧ value = 2 then exec .detach s
      else if offset = 0x008 ∧ value = 4 then exec .reset s
      else if offset = 0x020 then exec (.cmdTail value) s
      else if offset = 0x024 then exec (.cplHead value) s
      else if offset = 0x030 then exec (.evtHead 0 value) s
      else if offset = 0x034 then exec (.evtHead 1 value) s
      else if offset = 0x038 then exec (.evtHead 2 value) s
      else if offset = 0x03C then exec (.evtHead 3 value) s
      else .next s := by
  simp only [exec, execRegisterWrite, State.writeRegister, if_true]
  split
  case h_10 n008 n010 n014 n020 n024 n030 n034 n038 n03C =>
    have other : ∀ {k : Nat}, (offset.toNat = k → False) → (hk : k < 4096 := by decide) → offset ≠ BitVec.ofNat 12 k := by
      rintro k differs small rfl
      exact differs (Nat.mod_eq_of_lt small)
    have e008 := other n008
    have e010 := other n010
    have e014 := other n014
    have e020 := other n020
    have e024 := other n024
    have e030 := other n030
    have e034 := other n034
    have e038 := other n038
    have e03C := other n03C
    simp [e008, e010, e014, e020, e024, e030, e034, e038, e03C]
  all_goals
    rename_i named
    obtain rfl := offset_eq named
  case h_1 =>
    by_cases attach : value = 1#32
    · simp [attach, State.writeControl, execAttach]
    · by_cases detach : value = 2#32
      · simp [detach, State.writeControl, execDetach]
      · by_cases reset : value = 4#32
        · simp [reset, State.writeControl, execReset]
        · simp [attach, detach, reset, State.writeControl]
  case h_2 => by_cases detached : s.host.session = .detached <;> simp [detached, Session.isDetached_iff]
  case h_3 => by_cases detached : s.host.session = .detached <;> simp [detached, Session.isDetached_iff]
  all_goals simp [execCmdTail, execCplHead, execEvtHead]

/-- R176: the command that a write stands for is what the write does. -/
theorem exec_commandOfWrite (s : State) (offset : BitVec 12) (value : BitVec 32) (enables : BitVec 4) :
    exec (commandOfWrite offset value enables) s = exec (.registerWrite offset value enables) s := by
  unfold commandOfWrite
  split
  · rename_i all
    rw [all, exec_registerWrite_whole]
    split
    case h_8 => rw [← exec_registerWrite_whole]
    case h_1 =>
      rename_i named
      obtain rfl := offset_eq named
      by_cases attach : value = 1#32
      · simp [attach]
      · by_cases detach : value = 2#32
        · simp [detach]
        · by_cases reset : value = 4#32
          · simp [reset]
          · simp [attach, detach, reset, exec_registerWrite_whole]
    all_goals
      rename_i named
      obtain rfl := offset_eq named
      simp
  · rfl

/-- R176: a 64-bit write is that of its two words. -/
theorem commandsOfWrite64_append (offset : BitVec 12) (low high : BitVec 32) (lowEnables highEnables : BitVec 4) :
    commandsOfWrite64 offset (high ++ low) (highEnables ++ lowEnables) =
      commandsOfWrite offset [(low, lowEnables), (high, highEnables)] := by
  have parts : ∀ {w : Nat} (a b : BitVec w), (a ++ b).extractLsb' 0 w = b ∧ (a ++ b).extractLsb' w w = a := fun a b => by
    constructor
    · ext i hi
      simp [BitVec.getLsbD_append, hi, BitVec.getLsbD_eq_getElem]
    · ext i hi
      simp [BitVec.getLsbD_append, BitVec.getLsbD_eq_getElem hi]
  simp only [commandsOfWrite64, parts]

/-- Settles O47: a write is judged by its enables and its offset, and a wide one word by word. -/
theorem registerWrites : Obligations.RegisterWrites := by
  unfold Obligations.RegisterWrites
  refine ⟨?narrow, exec_registerWrite_whole, ?command, ?words, ?wide, ?initAddr⟩
  case narrow =>
    intro s offset value enables notAll
    simp only [exec, execRegisterWrite, State.writeRegister, if_neg notAll]
  case command => exact exec_commandOfWrite
  case words =>
    intro offset words
    induction words generalizing offset with
    | nil => exact ⟨rfl, fun k value enables found => by cases found⟩
    | cons word rest ih =>
      obtain ⟨length, each⟩ := ih (offset + 4#12)
      refine ⟨congrArg (· + 1) length, fun k value enables found => ?_⟩
      cases k with
      | zero =>
        cases found
        exact ⟨_, rfl, fun s => by rw [exec_commandOfWrite]; simp⟩
      | succ k =>
        obtain ⟨c, listed, same⟩ := each k value enables found
        refine ⟨c, listed, fun s => ?_⟩
        rw [same, BitVec.add_assoc, Nat.mul_succ, Nat.add_comm (4 * k), ← BitVec.ofNat_add]
  case wide => exact commandsOfWrite64_append
  case initAddr =>
    intro s low high detached
    have words : commandsOfWrite64 0x010 (high ++ low) 0xFF = [.registerWrite 0x010 low 0xF#4, .registerWrite 0x014 high 0xF#4] :=
      commandsOfWrite64_append 0x010 low high 0xF#4 0xF#4
    rw [words]
    refine ⟨{ s with host := { s.host with initAddrLo := low }, pending := .registerWrite 0x014 high 0xF#4 :: s.pending }, ?_, rfl, rfl,
      ?_⟩
    · show exec (.registerWrite 0x010 low 0xF#4) { s with pending := .registerWrite 0x014 high 0xF#4 :: s.pending } = _
      rw [exec_registerWrite_whole]
      simp [detached]
    · show exec (.registerWrite 0x014 high 0xF#4) { s with host := { s.host with initAddrLo := low } } = _
      rw [exec_registerWrite_whole]
      simp [detached]

/-! ### STATUS -/

/-- A field placed above all that stands below it adds its value at its position. -/
theorem or_bitsAt_toNat {w p : Nat} {x : BitVec 32} (y : BitVec w) (below : x.toNat < 2 ^ p) (room : p + w ≤ 32) :
    (x ||| bitsAt p y).toNat = x.toNat + 2 ^ p * y.toNat ∧ (x ||| bitsAt p y).toNat < 2 ^ (p + w) := by
  have small := y.isLt
  have product : 2 ^ p * y.toNat < 2 ^ (p + w) := by rw [Nat.pow_add]; exact Nat.mul_lt_mul_of_pos_left small (Nat.two_pow_pos p)
  have top : 2 ^ (p + w) ≤ 2 ^ 32 := Nat.pow_le_pow_right (by decide) room
  have placed : (bitsAt p y).toNat = y.toNat <<< p := by
    have narrow : y.toNat < 2 ^ 32 := small.trans_le (Nat.pow_le_pow_right (by decide) (by omega))
    rw [bitsAt, BitVec.toNat_shiftLeft, BitVec.toNat_setWidth, Nat.mod_eq_of_lt narrow, Nat.shiftLeft_eq, Nat.mul_comm,
      Nat.mod_eq_of_lt (product.trans_le top)]
  have sum : (x ||| bitsAt p y).toNat = x.toNat + 2 ^ p * y.toNat := by
    rw [BitVec.toNat_or, placed, Nat.or_comm, ← Nat.shiftLeft_add_eq_or_of_lt below, Nat.shiftLeft_eq, Nat.mul_comm, Nat.add_comm]
  refine ⟨sum, ?_⟩
  have le : x.toNat + 2 ^ p * y.toNat < 2 ^ p * (y.toNat + 1) := by rw [Nat.mul_succ]; omega
  rw [sum]
  exact le.trans_le (by rw [Nat.pow_add]; exact Nat.mul_le_mul_left _ small)

theorem Session.code_toNat (x : Session) : x.code.toNat = sessionNumber x := by cases x <;> rfl
theorem FaultCode.code_toNat (x : FaultCode) : x.code.toNat = faultNumber x := by cases x <;> rfl
theorem ResetCause.code_toNat (x : ResetCause) : x.code.toNat = resetNumber x := by cases x <;> rfl
theorem Quality.code_toNat (x : Quality) : x.code.toNat = qualityNumber x := by cases x <;> rfl

theorem Session.engineBusy_toNat (x : Session) : (BitVec.ofBool x.engineBusy).toNat = busyNumber x := by
  cases x with
  | attached h =>
    cases engine : h.archiveEngine <;> simp [Session.engineBusy, busyNumber, engine, ArchiveEngine.promised]
  | _ => rfl

/-- R164, R177: STATUS is the sum of its fields at their positions. -/
theorem State.status_toNat (s : State) : s.status.toNat =
    sessionNumber s.host.session + 2 ^ 4 * faultNumber s.host.faultCode + 2 ^ 8 * s.host.initFieldIndex.toNat +
    2 ^ 16 * resetNumber s.host.resetCause + 2 ^ 20 * qualityNumber s.capture.timebase.quality +
    2 ^ 24 * busyNumber s.host.session + 2 ^ 25 * (if s.host.faultNotifyFailed = true then 1 else 0) := by
  have session : (bitsAt 0 s.host.session.code).toNat = sessionNumber s.host.session ∧
      (bitsAt 0 s.host.session.code).toNat < 2 ^ 4 := by
    cases s.host.session <;> exact ⟨rfl, Nat.lt_of_sub_eq_succ rfl⟩
  have widen : ∀ {x : BitVec 32} {p q : Nat}, x.toNat < 2 ^ p → p ≤ q → x.toNat < 2 ^ q := fun below more =>
    below.trans_le (Nat.pow_le_pow_right (by decide) more)
  obtain ⟨fault, below⟩ := or_bitsAt_toNat (p := 4) s.host.faultCode.code session.2 (by decide)
  obtain ⟨index, below⟩ := or_bitsAt_toNat (p := 8) s.host.initFieldIndex (widen below (by decide)) (by decide)
  obtain ⟨cause, below⟩ := or_bitsAt_toNat (p := 16) s.host.resetCause.code (widen below (by decide)) (by decide)
  obtain ⟨quality, below⟩ := or_bitsAt_toNat (p := 20) s.capture.timebase.quality.code (widen below (by decide)) (by decide)
  obtain ⟨busy, below⟩ := or_bitsAt_toNat (p := 24) (BitVec.ofBool s.host.session.engineBusy) (widen below (by decide)) (by decide)
  obtain ⟨failed, -⟩ := or_bitsAt_toNat (p := 25) (BitVec.ofBool s.host.faultNotifyFailed) (widen below (by decide)) (by decide)
  have flag : (BitVec.ofBool s.host.faultNotifyFailed).toNat = if s.host.faultNotifyFailed = true then 1 else 0 := by
    cases s.host.faultNotifyFailed <;> rfl
  rw [State.status, failed, busy, quality, cause, index, fault, session.1, flag, FaultCode.code_toNat, ResetCause.code_toNat,
    Quality.code_toNat, Session.engineBusy_toNat]

/-- R117: EVT_HEAD of each ring reads its consumer index. -/
theorem eventHead_read (s : State) (n : RingNo) :
    s.readRegister (BitVec.ofNat 12 (0x030 + 4 * n.val)) = BitVec.ofNat 32 (s.eventHead n) := by
  match n with
  | 0 | 1 | 2 | 3 => rfl

/-- Settles O48: what a read returns is fixed by its offset alone. -/
theorem registerReads : Obligations.RegisterReads := by
  unfold Obligations.RegisterReads
  intro s
  refine ⟨rfl, rfl, rfl, rfl, s.status_toNat, fun h attached => ⟨?_, ?_, fun n => ?_⟩, fun outside => ⟨?_, ?_, fun n => ?_⟩,
    fun offset unlisted => ?_⟩
  · show BitVec.ofNat 32 s.host.session.commandTail = _
    rw [attached]
    rfl
  · show BitVec.ofNat 32 s.host.session.completionHead = _
    rw [attached]
    rfl
  · rw [eventHead_read]
    simp only [State.eventHead, State.attachedRing, attached, Attached.eventRing]
    cases h.eventRings.get n <;> rfl
  · show BitVec.ofNat 32 s.host.session.commandTail = 0
    unfold Session.commandTail
    split
    · exact absurd (by assumption) (outside _)
    all_goals rfl
  · show BitVec.ofNat 32 s.host.session.completionHead = 0
    unfold Session.completionHead
    split
    · exact absurd (by assumption) (outside _)
    all_goals rfl
  · have absent : s.eventHead n = 0 := by
      unfold State.eventHead State.attachedRing
      split
      · rfl
      · rename_i r ring
        split at ring
        · exact absurd (by assumption) (outside _)
        all_goals cases ring
    rw [eventHead_read, absent]
    rfl
  · unfold State.readRegister
    split
    case h_11 => rfl
    all_goals
      rename_i named
      exact absurd (offset_eq named ▸ by decide) unlisted

end Sys2Proof.Machine
end

section
/-! Proofs about the timebase (Chapter 3): sync pulses, expiries, CONFIGURE_TIMEBASE, SET_TIME and GET_TIME. -/

namespace Sys2Proof.Machine

-- One declaration at a time: the check of the whole text then stays within its memory.
set_option Elab.async false

/-! ### Sync pulses (R45 to R47) -/

/-- R44: a pulse is evaluated, and the level is recorded. -/
theorem Capture.syncSample_of_pulse {c : Capture} {level : Level} (pulse : SyncPulseAt c level) :
    c.syncSample level = { c with syncLevel := level, timebase := c.timebase.pulse c.elapsed } := by
  obtain ⟨changed, edge, enabled, set⟩ := pulse
  have active := (Capture.edgeIsTo_iff c.timebase.activeEdge level).mpr edge
  simp only [Capture.syncSample, if_neg changed, if_pos (And.intro active (And.intro enabled set))]

/-- R45, step 4: four accepted pulses in a row lock a free timebase, and any other disciplined one is locked. -/
theorem Quality.afterAccepted_eq {q : Quality} (set : q ≠ .unset) (run : BitVec 32) :
    q.afterAccepted run = if q = .free ∧ run.toNat < 4 then .free else .locked := by
  cases q with
  | unset => exact absurd rfl set
  | free =>
    show (if 4 ≤ run.toNat then _ else _) = _
    by_cases few : run.toNat < 4
    · rw [if_neg (Nat.not_le.mpr few), if_pos ⟨rfl, few⟩]
    · rw [if_pos (Nat.not_lt.mp few), if_neg (fun both => few both.2)]
  | locked => rfl
  | holdover => rfl

section
variable {t : Timebase} {sub e : Nat} (now : Nat)

theorem Timebase.offset_eq (hsub : sub = t.timeValue % 1000000) (he : e = if 500000 ≤ sub then 1000000 - sub else sub) :
    t.offset = e := by
  subst hsub he
  show (if decide (500000 ≤ t.timeValue % 1000000) = true then 1000000 - t.timeValue % 1000000 else t.timeValue % 1000000) = _
  simp only [decide_eq_true_eq]

/-- R45: nothing on the second, a hold when ahead, a forward step when behind. -/
theorem Timebase.correct_eq (none : t.holdExpiry = none) (hsub : sub = t.timeValue % 1000000)
    (he : e = if 500000 ≤ sub then 1000000 - sub else sub) : t.correct now = { t with
      timeValue := if 500000 ≤ sub then t.timeValue + e else t.timeValue
      holdExpiry := if 1 ≤ sub ∧ sub ≤ 499999 then some (now + e) else .none } := by
  have offset := Timebase.offset_eq hsub he
  have subSecond : t.subSecond = sub := hsub.symm
  unfold Timebase.correct
  rw [offset, subSecond, Timebase.behind, subSecond]
  by_cases zero : sub = 0
  · rw [if_pos zero, if_neg (by omega), if_neg (by omega), ← none]
  · rw [if_neg zero]
    by_cases behind : 500000 ≤ sub
    · rw [if_pos (decide_eq_true behind), if_pos behind, if_neg (by omega), ← none]
    · rw [if_neg (by simp [behind]), if_neg behind, if_pos (by omega)]

/-- R45: what an accepted pulse does; a hold that runs has ended before the pulse is evaluated. -/
theorem Timebase.pulse_of_accepted (set : t.quality ≠ .unset) (hsub : sub = t.timeValue % 1000000)
    (he : e = if 500000 ≤ sub then 1000000 - sub else sub) (within : e ≤ t.tolerance) : t.pulse now = { t with
      timeValue := if 500000 ≤ sub then t.timeValue + e else t.timeValue
      holdExpiry := if 1 ≤ sub ∧ sub ≤ 499999 then some (now + e) else none
      acceptedRun := satInc t.acceptedRun
      rejectedRun := 0
      lastAccepted := some now
      quality := if t.quality = .free ∧ (satInc t.acceptedRun).toNat < 4 then .free else .locked
      holdoverEntry := if t.quality = .holdover then none else t.holdoverEntry } := by
  have accepts : ({ t with holdExpiry := none } : Timebase).accepts = true := by
    rw [Timebase.accepts, Timebase.offset_eq (t := { t with holdExpiry := none }) hsub he]
    exact decide_eq_true within
  simp only [Timebase.pulse, if_pos accepts, Timebase.acceptPulse,
    Timebase.correct_eq (t := { t with holdExpiry := none }) now rfl hsub he, Quality.afterAccepted_eq set]

/-- R47: what a rejected pulse does; the third in a row loses a lock. -/
theorem Timebase.pulse_of_rejected (hsub : sub = t.timeValue % 1000000)
    (he : e = if 500000 ≤ sub then 1000000 - sub else sub) (above : t.tolerance < e) : t.pulse now = { t with
      holdExpiry := none
      rejectedRun := satInc t.rejectedRun
      acceptedRun := 0
      quality := if t.quality = .locked ∧ 3 ≤ (satInc t.rejectedRun).toNat then .holdover else t.quality
      holdoverEntry := if t.quality = .locked ∧ 3 ≤ (satInc t.rejectedRun).toNat then some now else t.holdoverEntry } := by
  have rejects : ¬ ({ t with holdExpiry := none } : Timebase).accepts = true := by
    rw [Timebase.accepts, Timebase.offset_eq (t := { t with holdExpiry := none }) hsub he, decide_eq_true_iff]
    exact Nat.not_le.mpr above
  simp only [Timebase.pulse, if_neg rejects, Timebase.rejectPulse, Bool.and_eq_true, decide_eq_true_eq]

end

/-- Settles O18: the offset from the pulse mark decides between correction and rejection. -/
theorem syncPulseEvaluated : Obligations.SyncPulseEvaluated := by
  unfold Obligations.SyncPulseEvaluated
  intro s level sub e pulse hsub he
  have run : exec (.syncPulse level) s = .next { s with capture := { s.capture with
      syncLevel := level, timebase := s.capture.timebase.pulse s.capture.elapsed } } :=
    congrArg Host.Outcome.next (by rw [State.onCapture, Capture.syncSample_of_pulse pulse])
  refine ⟨fun within => ?_, fun above => ?_⟩
  · rw [run, Timebase.pulse_of_accepted _ pulse.2.2.2 hsub he within]
  · rw [run, Timebase.pulse_of_rejected _ hsub he above]

/-! ### The expiries (R46, R48, R49) -/

/-- Settles O19: each expiry finds its timer run out. -/
theorem timebaseExpiries : Obligations.TimebaseExpiries := by
  unfold Obligations.TimebaseExpiries
  have acts : ∀ {s : State} {f : Timebase → Timebase} {t : Timebase}, f s.capture.timebase = t →
      (Host.Outcome.next (s.onCapture (Capture.onTimebase f)) : Host.Outcome State Fault Refusal) =
        .next { s with capture := { s.capture with timebase := t } } := fun {s f t} h => by
    rw [State.onCapture, Capture.onTimebase, h]
  refine ⟨fun s x runs reached => acts ?_, fun s x locked last reached => acts ?_, fun s x holdover entry reached => acts ?_⟩
  · exact if_pos (Timebase.holdDue_iff.mpr ⟨x, runs, reached⟩)
  · exact if_pos (Timebase.lossDue_iff.mpr ⟨locked, x, last, reached⟩)
  · exact if_pos (Timebase.holdoverDue_iff.mpr ⟨holdover, x, entry, reached⟩)

/-! ### CONFIGURE_TIMEBASE (R51) -/

/-- R51: what the four fields do to the timebase. -/
theorem Timebase.configure_eq (t : Timebase) (enable : Bool) (edge : Edge) (tolerance limit now : Nat) :
    t.configure enable edge tolerance limit now =
      if t.syncEnable = true ∧ enable = false then
        { t with
          syncEnable := enable, activeEdge := edge, tolerance := tolerance, holdoverLimit := limit
          acceptedRun := 0, rejectedRun := 0, lastAccepted := none, holdoverEntry := none
          quality := if t.quality = .unset then .unset else .free }
      else if t.syncEnable = true ∧ t.quality = .holdover ∧
          t.holdoverEntry.any (fun x => decide (x + limit * 1000000 ≤ now)) = true then
        { t with
          syncEnable := enable, activeEdge := edge, tolerance := tolerance, holdoverLimit := limit
          quality := .free, holdoverEntry := none, acceptedRun := 0, rejectedRun := 0 }
      else { t with syncEnable := enable, activeEdge := edge, tolerance := tolerance, holdoverLimit := limit } := by
  unfold Timebase.configure
  simp only [Quality.undisciplined_cases]
  by_cases disables : t.syncEnable = true ∧ enable = false
  · rw [if_pos disables, if_pos disables]
  · rw [if_neg disables, if_neg disables]
    by_cases on : t.syncEnable = true
    · have kept : enable = true := by
        cases enable with
        | false => exact absurd ⟨on, rfl⟩ disables
        | true => rfl
      rw [if_pos ⟨on, kept⟩, Timebase.endHoldover]
      refine if_congr ?_ rfl rfl
      rw [Timebase.holdoverDue_iff, Option.any_eq_true]
      simp only [on, true_and, decide_eq_true_eq]
    · rw [if_neg fun both => on both.1, if_neg fun both => on both.1]

/-- A code in range names the edge (R179). -/
theorem edgeOfCode_getD {b : Byte} (range : b.toNat ≤ 1) : (edgeOfCode b).getD .rising = if b = 0 then .rising else .falling := by
  obtain rfl | rfl : b = 0 ∨ b = 1 := by bv_omega
  · rfl
  · rfl

/-- Settles O20: the command stores its fields, and the completion reports the quality they leave. -/
theorem configureTimebaseAccepted : Obligations.ConfigureTimebaseAccepted := by
  unfold Obligations.ConfigureTimebaseAccepted
  intro s h read tag enable edge tolerance limit r accepted
  have enableRange : enable.toNat ≤ 1 := accepted 2
  have edgeRange : edge.toNat ≤ 1 := accepted 3
  have off : (decide (enable = 1) = false) = (enable = 0) := propext (by
    rw [decide_eq_false_iff_not]
    bv_omega)
  have valid := firstFailure_of_accepted (c := .configureTimebase ⟨read, tag⟩ enable edge tolerance limit) rfl accepted
  have run : exec (.configureTimebase ⟨read, tag⟩ enable edge tolerance limit) s =
      .next ((s.withHost h.readDone).configureTimebase tag (decide (enable = 1)) (if edge = 0 then .rising else .falling)
        tolerance.toNat limit.toNat) := by
    rw [← flag_getLsbD_zero enableRange, ← edgeOfCode_getD edgeRange]
    exact congrArg _ (State.runCommand_carried r valid 0x03 tag _)
  have body : (s.withHost h.readDone).configureTimebase tag (decide (enable = 1)) (if edge = 0 then .rising else .falling)
      tolerance.toNat limit.toNat =
      (s.onCapture (Capture.onTimebase (Timebase.configure (decide (enable = 1)) (if edge = 0 then .rising else .falling)
        tolerance.toNat limit.toNat s.capture.elapsed))).withHost (h.answered s.capture.elapsed 0x03 tag 0x00 0
          ([BitVec.ofNat 8 (qualityNumber (s.capture.timebase.configure (decide (enable = 1)) (if edge = 0 then .rising else .falling)
            tolerance.toNat limit.toNat s.capture.elapsed).quality)] ++ zeros 23)) := by
    rw [← bytesOf_qualityResult]
    exact State.complete_readDone (s.onCapture _) h 0x03 tag .success _
  refine ⟨_, run.trans (congrArg _ body), rfl, ?_⟩
  refine (Timebase.configure_eq _ _ _ _ _ _).trans ?_
  simp only [off]

/-! ### SET_TIME and GET_TIME (R53 to R55, R139) -/

/-- A record without a class needs no room of its own and sheds nothing (R58). -/
theorem Capture.stage_of_noClass (c : Capture) {e : Entry} (noClass : e.cls = none) : c.stage e = (c.insert e, true) := by
  obtain ⟨-, inserted⟩ | ⟨line, -⟩ := c.stage_cases e
  · exact inserted
  · simp [Entry.isLineRecord, noClass] at line

/-- R53 to R55: what SET_TIME does to the capture side. -/
theorem Capture.setTime_frame (c : Capture) (value : Nat) (systemRing : RingNo) : c.setTime value systemRing = { c with
    timebase := c.timebase.set value
    lines := (c.restamped value).lines
    staging := insertByKey (timeStepEntry { generation := c.timebase.generation + 1#32, timeValue := value, quality := .free } c.elapsed
      c.timebase.timeValue systemRing) c.staging
    highWater := max c.highWater (c.staging.length + 1) } := by
  have restamped : c.restamped value = { c with timebase := c.timebase.set value, lines := (c.restamped value).lines } := by
    simp only [Capture.restamped, Capture.onTimebase]
  have inserted : ∀ (e : Entry) (d : Capture), d = { c with timebase := c.timebase.set value, lines := d.lines } →
      d.insert e = { c with
        timebase := c.timebase.set value, lines := d.lines, staging := insertByKey e c.staging
        highWater := max c.highWater (c.staging.length + 1) } := fun e d same => by
    rw [same]
    rfl
  rw [Capture.setTime_eq, Capture.stage_of_noClass _ rfl, Capture.restamped_stamp, Capture.restamped_elapsed,
    inserted _ _ restamped]
  rfl

theorem Capture.line_congr {c d : Capture} (same : c.lines = d.lines) (i : LineNo) : c.line i = d.line i :=
  congrArg (Vector.get · i) same

/-- R54: a line re-stamped keeps its level and takes the new stamp where it is a candidate. -/
theorem Line.restamp_eq (l : Line) (now : Nat) (stamp : Stamp) : l.restamp now stamp = { l with
    qualifier := match l.qualifier with
      | .candidate level target _ _ => .candidate level target now stamp
      | .stable level => .stable level
      | .off => .off } := by
  obtain ⟨config, raw, qualifier, chatter, counter, glitches, transitions, shed, episodes⟩ := l
  cases qualifier <;> rfl

/-- Settles O22: the command sets the time, re-stamps the candidates and stages its own record. -/
theorem setTimeAccepted : Obligations.SetTimeAccepted := by
  unfold Obligations.SetTimeAccepted
  intro s h read tag value r accepted next room
  refine ⟨_, by rw [exec_setTime r accepted, State.setTime_of_room _ next room], ?_, fun i => ?_⟩
  · rw [State.onCapture, Capture.setTime_frame]
    rfl
  · rw [State.withHost_capture, State.onCapture_capture, Capture.setTime_frame]
    exact (Capture.line_congr rfl i).trans ((Capture.line_restamped _ _ i).trans (Line.restamp_eq _ _ _))

theorem word64_toNat {n : Nat} (fits : n < 2 ^ 64) : (word64 n).toNat = n := by
  rw [word64, if_pos fits, BitVec.toNat_ofNat, Nat.mod_eq_of_lt fits]

/-- Settles O23: GET_TIME completes with what the timebase holds. -/
theorem getTimeReports : Obligations.GetTimeReports := by
  unfold Obligations.GetTimeReports
  refine ⟨fun n fits => word64_toNat fits, fun s h read tag r accepted => ?_⟩
  have valid := firstFailure_of_accepted (c := .getTime ⟨read, tag⟩) rfl accepted
  calc exec (.getTime ⟨read, tag⟩) s
      = .next ((s.withHost h.readDone).complete 0x05 tag .success (timeResult s.capture.timebase s.capture.holdRemaining)) :=
        congrArg _ (State.runCommand_carried r valid 0x05 tag _)
    _ = _ := by
        rw [State.complete_readDone, bytesOf_timeResult, Capture.holdRemaining]
        cases s.capture.timebase.holdExpiry with
        | none => rfl
        | some x => rfl

end Sys2Proof.Machine
end

section
/-! Proofs about the command intake (Chapter 7), SET_NOTIFY (section 8.3.12), and the layouts of the command record and the
initialisation block (R179, R180). -/

namespace Sys2Proof.Machine

-- One declaration at a time: the check of the whole text then stays within its memory.
set_option Elab.async false

/-! ### COMMAND_TAKE (R115, R121) -/

/-- R115: from the consumer index, the occupied entries lead to the producer index. -/
theorem occupiedCount_spec {size producer consumer : Nat} (hp : producer < size) (hc : consumer < size) :
    occupiedCount size producer consumer < size ∧ (consumer + occupiedCount size producer consumer) % size = producer := by
  refine ⟨Nat.mod_lt _ (by omega), ?_⟩
  rw [occupiedCount_eq hp hc]
  split
  · rw [Nat.add_sub_cancel' (by assumption), Nat.mod_eq_of_lt hp]
  · rw [show consumer + (producer + size - consumer) = producer + size by omega, Nat.add_mod_right, Nat.mod_eq_of_lt hp]

theorem slotAddress_toNat {base : BitVec 64} {entrySize i : Nat} (fits : base.toNat + i * entrySize < 2 ^ 64) :
    (slotAddress base entrySize i).toNat = base.toNat + i * entrySize := by
  rw [slotAddress, if_pos fits, BitVec.toNat_ofNat, Nat.mod_eq_of_lt fits]

/-- Settles O38: the take tests its three conditions, and a ring's counts are differences of its indices. -/
theorem commandTakeIssuesRead : Obligations.CommandTakeIssuesRead := by
  unfold Obligations.CommandTakeIssuesRead
  refine ⟨fun s h attached => ?_, fun s notAttached => ?_, fun base entrySize i fits => slotAddress_toNat fits,
    fun r hp hc => occupiedCount_spec hp hc, fun r hp hc => occupiedCount_spec hp hc⟩
  · simp only [exec, execCommandTake, State.takeCommand, attached, Attached.canTakeCommand_iff]
    exact apply_ite Host.Outcome.next _ _ _
  · simp only [exec, execCommandTake, State.takeCommand]
    split
    · rename_i h attached
      exact absurd attached (notAttached h)
    all_goals rfl

/-! ### SET_NOTIFY (R150, R151) -/

/-- R150: the vectors of absent event rings, and no others, are absent. -/
theorem Attached.vectorPresent_iff (h : Attached) (v : VectorNo) :
    h.vectorPresent v = true ↔ ¬ ∃ n : RingNo, v.val = n.val + 1 ∧ h.eventRings.get n = none := by
  have outer : (v = 0 ∨ v = 5) = (v.val = 0 ∨ v.val = 5) := by rw [Fin.ext_iff, Fin.ext_iff]; rfl
  simp only [Attached.vectorPresent, outer]
  by_cases always : v.val = 0 ∨ v.val = 5
  · refine iff_of_true (if_pos always) ?_
    rintro ⟨n, isRing, -⟩
    omega
  · have ring : ∀ n : RingNo, v.val = n.val + 1 ↔ n = Fin.ofNat 4 (v.val - 1) := fun n => by
      rw [Fin.ext_iff, Fin.val_ofNat]
      omega
    rw [if_neg always, Option.isSome_iff_ne_none]
    simp only [ring, exists_eq_left]
    rfl

/-- Settles O44: the vector's event ring decides between refusal and replacement. -/
theorem setNotifyReplacesThresholdAndDelay : Obligations.SetNotifyReplacesThresholdAndDelay := by
  unfold Obligations.SetNotifyReplacesThresholdAndDelay
  intro s h read tag vector threshold delay v r accepted names
  have valid := firstFailure_of_accepted (c := .setNotify ⟨read, tag⟩ vector threshold delay) rfl accepted
  have run : exec (.setNotify ⟨read, tag⟩ vector threshold delay) s =
      .next (s.withHost (h.readDone.setNotify tag v threshold.toNat delay.toNat s.capture.elapsed)) := by
    refine congrArg _ ((State.runCommand_carried r valid 0x0C tag _).trans ?_)
    rw [names, Fin.ofNat_val_eq_self]
    exact State.onHost_attached _ _ (State.withHost_session _ _)
  have present : h.readDone.vectorPresent v = true ↔ ¬ ∃ n : RingNo, v.val = n.val + 1 ∧ h.eventRings.get n = none :=
    Attached.vectorPresent_iff h.readDone v
  rw [run]
  by_cases absent : ∃ n : RingNo, v.val = n.val + 1 ∧ h.eventRings.get n = none
  · rw [if_pos absent, Attached.setNotify, if_neg (fun p => present.mp p absent),
      Attached.handCompletion_eq, Completion.plain, bytesOf_zero]
    rfl
  · rw [if_neg absent, Attached.setNotify, if_pos (present.mpr absent), Attached.handCompletion_eq,
      Completion.plain, bytesOf_zero]
    rfl

/-! ### The layouts (R179, R180) -/

/-- A kind code that is none of the twelve spells BAD_KIND. -/
theorem commandOfRecord_of_undefined {read : Nat} {r : BitVec 512} (undefined : definedKind (fieldAt r 0 8) = false) :
    commandOfRecord read r = .badKind (fieldAt r 0 8) { read := read, tag := fieldAt r 2 16 } := by
  unfold commandOfRecord
  split
  case h_13 => rfl
  all_goals
    rename_i code
    simp [definedKind, code] at undefined

/-- R179: a command record spells the command it was made of. -/
theorem commandOfRecord_recordOfCommand {c : Instr} {read : Nat} {r : BitVec 512} (wf : c.wf = true)
    (record : recordOfCommand c = some r) (answers : c.answeredRead = some read) : commandOfRecord read r = c := by
  cases c with
  | badKind kind head =>
    cases record
    cases answers
    have kindField : fieldAt (recordHeader kind head.tag) 0 8 = kind := by
      simp (disch := omega) [recordHeader, fieldAt_placeAt_same, fieldAt_placeAt_below]
    have tagField : fieldAt (recordHeader kind head.tag) 2 16 = head.tag := by
      simp (disch := omega) [recordHeader, fieldAt_placeAt_same, fieldAt_placeAt_above]
    rw [commandOfRecord_of_undefined (by simpa [kindField, Instr.wf] using wf), kindField, tagField]
  | configureLines _ _ | configureGroup _ _ _ _ _ | configureTimebase _ _ _ _ _ | setTime _ _ | getTime _ | snapshotLevels _ _
  | snapshotCounters _ _ _ | readStatistics _ _ _ | replay _ _ _ _ | verifyArchive _ _ _ | abort _ _ | setNotify _ _ _ _ =>
    cases record
    cases answers
    simp (disch := omega) [commandOfRecord, recordHeader, fieldAt_placeAt_same, fieldAt_placeAt_above, fieldAt_placeAt_below]
  | rawChange _ _ | debounceExpiry _ | windowTimerExpiry _ | quietTimerExpiry _ | syncPulse _ | holdExpiry | lossExpiry
  | holdoverExpiry | entryEligible _ | releaseStep _ | replayRead | replayGrant | verifyRead | commandTake | memoryWriteIssue
  | coalescingTimerExpiry _ | cmdTail _ | cplHead _ | evtHead _ _ | registerWrite _ _ _ | attach | blockReadComplete _
  | initBusError _ | readBusError _ | writeBusError | faultNotifyFailed | detach | reset | linkReset _ | powerOnReset _ _
  | retentionDisturbance _ _ _ => cases record

/-- R180: an initialisation block spells the fields it was made of. -/
theorem initBlockOfBits_bitsOfInitBlock (b : InitBlock) : initBlockOfBits (bitsOfInitBlock b) = b := by
  obtain ⟨version, commandBase, commandSize, completionBase, completionSize, eventRings, systemRing, vectors⟩ := b
  simp only [initBlockOfBits, InitBlock.mk.injEq]
  refine ⟨?_, ?_, ?_, ?_, ?_, ?_, ?_, ?_⟩
  case refine_6 =>
    ext1 n range
    rw [Vector.getElem_ofFn]
    interval_cases n
    all_goals
      simp (disch := omega) [bitsOfInitBlock, eventRingBits, vectorBits, fieldAt_placeAt_same, fieldAt_placeAt_above,
        fieldAt_placeAt_below, Vector.get_eq_getElem]
  case refine_8 =>
    ext1 v range
    rw [Vector.getElem_ofFn]
    interval_cases v
    all_goals
      simp (disch := omega) [bitsOfInitBlock, eventRingBits, vectorBits, fieldAt_placeAt_same, fieldAt_placeAt_above,
        fieldAt_placeAt_below, Vector.get_eq_getElem]
  all_goals
    simp (disch := omega) [bitsOfInitBlock, eventRingBits, vectorBits, fieldAt_placeAt_same, fieldAt_placeAt_above,
      fieldAt_placeAt_below]

/-- Settles O53: every field is read from where it was placed, and every number from its bytes. -/
theorem decodeOfEncode : Obligations.DecodeOfEncode :=
  ⟨fun _ _ _ wf record answers => commandOfRecord_recordOfCommand wf record answers, initBlockOfBits_bitsOfInitBlock,
    fun r => bitsOfBytes_bytesOf 64 r (by decide), fun r => bitsOfBytes_bytesOf 256 r (by decide)⟩

end Sys2Proof.Machine
end

section
/-! Proofs about the result buffers of SNAPSHOT_LEVELS and READ_STATISTICS (sections 8.3.6, 8.3.8, R180). -/

namespace Sys2Proof.Machine

-- One declaration at a time: the check of the whole text then stays within its memory.
set_option Elab.async false

/-! ### A buffer whose write becomes due -/

/-- R142, R146: the command executes until the write of its buffer is issued. -/
theorem State.writeBuffer_readDone (s : State) (h : Attached) (kind : Byte) (tag : BitVec 16) (address : BitVec 64)
    (data : List Byte) : (s.withHost h.readDone).writeBuffer kind tag address data = s.withHost { h.readDone with
      command := .executing kind tag
      due := h.due ++ [{ source := .buffer, address := address, data := data, dueAt := s.capture.elapsed }] } :=
  State.onHost_attached _ _ (State.withHost_session _ _)

/-- A field of at most a byte is a byte and zeros. -/
theorem bytesOf_setWidth {w : Nat} (x : BitVec w) (narrow : w ≤ 8) : bytesOf 4 (x.setWidth 32) = [x.setWidth 8] ++ zeros 3 := by
  have front := bytesOf_placeAt_front (n := 32) 1 3 x narrow (by decide)
  have byte : bytesOf 1 x = [x.setWidth 8] := by
    refine congrArg (· :: []) (BitVec.eq_of_getLsbD_eq fun k hk => ?_)
    rw [getLsbD_fieldAt, BitVec.getLsbD_setWidth, Nat.mul_zero, Nat.zero_add]
  rw [byte] at front
  rw [← front, placeAt, Nat.mul_zero, BitVec.shiftLeft_zero]

/-! ### SNAPSHOT_LEVELS (R141) -/

/-- A mask that is filled bit by bit has the bits that it was filled with. -/
theorem getLsbD_fillMask {α : Type} {w : Nat} (place : α → Nat) (p : α → Bool) (k : Nat) (range : k < w) (members : List α) :
    ∀ m : BitVec w, (members.foldl (fun m i => m ||| ((BitVec.ofBool (p i)).setWidth w <<< place i)) m).getLsbD k =
      (m.getLsbD k || members.any fun i => decide (place i = k) && p i) := by
  induction members with
  | nil => simp
  | cons i rest ih =>
    intro m
    have bit : ((BitVec.ofBool (p i)).setWidth w <<< place i).getLsbD k = (decide (place i = k) && p i) := by
      rw [BitVec.getLsbD_shiftLeft, BitVec.getLsbD_setWidth]
      obtain below | same | above := lt_trichotomy (place i) k
      · simp [BitVec.getLsbD_of_ge _ _ (show 1 ≤ k - place i by omega), below.ne]
      · subst same
        simp [range, Nat.zero_lt_of_lt range]
      · simp [above, above.ne']
    rw [List.foldl_cons, ih, BitVec.getLsbD_or, bit, List.any_cons, Bool.or_assoc]

theorem getLsbD_lineMask (lines : Vector Line 48) (p : Line → Bool) (k : Nat) (range : k < 64) :
    (lineMask lines p).getLsbD k = (List.finRange 48).any fun i => decide (i.val = k) && p (lines.get i) := by
  rw [lineMask, getLsbD_fillMask (fun i : LineNo => i.val) (fun i => p (lines.get i)) k range]
  simp

/-- R178: line `i` stands at bit `i`. -/
theorem getLsbD_lineMask_line (lines : Vector Line 48) (p : Line → Bool) (i : LineNo) :
    (lineMask lines p).getLsbD i.val = p (lines.get i) := by
  rw [getLsbD_lineMask _ _ _ (by omega), Bool.eq_iff_iff, List.any_eq_true]
  simp only [Bool.and_eq_true, decide_eq_true_eq, Fin.val_inj, List.mem_finRange, true_and, exists_eq_left]

theorem lineMask_lt (lines : Vector Line 48) (p : Line → Bool) : (lineMask lines p).toNat < 2 ^ 48 := by
  refine lt_two_pow_48_iff.mpr fun b high => ?_
  by_cases range : b < 64
  · rw [getLsbD_lineMask _ _ _ range, List.any_eq_false]
    intro i _
    simp only [Bool.and_eq_true, decide_eq_true_eq]
    omega
  · exact BitVec.getLsbD_of_ge _ _ (by omega)

/-- Settles O41: the three masks are the bits of the lines, and the write of the buffer becomes due. -/
theorem snapshotLevelsBuffer : Obligations.SnapshotLevelsBuffer := by
  unfold Obligations.SnapshotLevelsBuffer
  intro s h read tag address r accepted
  have valid := firstFailure_of_accepted (c := .snapshotLevels ⟨read, tag⟩ address) rfl accepted
  refine ⟨lineMask s.capture.lines fun l => l.qualifier.level, lineMask s.capture.lines fun l => decide (l.config.role ≠ .off),
    lineMask s.capture.lines fun l => l.chatter.isChattering, fun i => ?_, ⟨lineMask_lt _ _, lineMask_lt _ _, lineMask_lt _ _⟩, ?_⟩
  · simp only [getLsbD_lineMask_line, decide_eq_true_eq, Chatter.isChattering_iff]
    exact ⟨fun off => congrArg Qualifier.level off, fun level stable => congrArg Qualifier.level stable,
      fun level target capture stamp candidate => congrArg Qualifier.level candidate, Iff.rfl, Iff.rfl⟩
  · calc exec (.snapshotLevels ⟨read, tag⟩ address) s
        = .next ((s.withHost h.readDone).writeBuffer 0x06 tag address (levelsBuffer s.capture)) :=
          congrArg _ (State.runCommand_carried r valid 0x06 tag _)
      _ = _ := by
          rw [State.writeBuffer_readDone, levelsBuffer, bytesOf_setWidth _ (by decide), ← Quality.code_setWidth]
          simp only [List.append_assoc]

/-! ### READ_STATISTICS (R144, R145) -/

/-- `part` stands at an offset of `data`. -/
def StandsAt (data : List Byte) (offset : Nat) (part : List Byte) : Prop :=
  ∃ before after, data = before ++ (part ++ after) ∧ before.length = offset

theorem StandsAt.slice {data part : List Byte} {offset : Nat} (stands : StandsAt data offset part) :
    (data.drop offset).take part.length = part := by
  obtain ⟨before, after, rfl, rfl⟩ := stands
  rw [List.drop_left, List.take_left]

/-- A part of a part stands at the sum of the offsets. -/
theorem StandsAt.trans {data part sub : List Byte} {offset inner : Nat} (outer : StandsAt data offset part)
    (stands : StandsAt part inner sub) : StandsAt data (offset + inner) sub := by
  obtain ⟨before, after, rfl, rfl⟩ := outer
  obtain ⟨front, rest, rfl, rfl⟩ := stands
  exact ⟨before ++ front, rest ++ after, by simp only [List.append_assoc], List.length_append⟩

/-- In a run of figures of one size, each stands at its number times the size. -/
theorem StandsAt.ofFlatMap {n size : Nat} {f : Fin n → List Byte} (sized : ∀ i, (f i).length = size) (i : Fin n) :
    StandsAt ((List.finRange n).flatMap f) (size * i.val) (f i) := by
  have bound : i.val < (List.finRange n).length := by rw [List.length_finRange]; exact i.isLt
  refine ⟨((List.finRange n).take i.val).flatMap f, ((List.finRange n).drop (i.val + 1)).flatMap f, ?_, ?_⟩
  · calc (List.finRange n).flatMap f
        = ((List.finRange n).take i.val ++ (List.finRange n)[i.val] :: (List.finRange n).drop (i.val + 1)).flatMap f := by
          rw [← List.drop_eq_getElem_cons bound, List.take_append_drop]
      _ = _ := by rw [List.flatMap_append, List.flatMap_cons, List.getElem_finRange]; rfl
  · simp [List.length_flatMap, sized, Nat.mul_comm]

theorem length_lineFigures (lines : Vector Line 48) (f : Line → BitVec 32) : (lineFigures lines f).length = 192 := by
  simp [lineFigures, List.length_flatMap]

theorem length_tallyBytes (t : Tally) : (tallyBytes t).length = 8 := by simp [tallyBytes]

/-- R180: a line's figure stands at four times its number, from the offset of its table. -/
theorem StandsAt.lineFigure {data : List Byte} {offset : Nat} {lines : Vector Line 48} {f : Line → BitVec 32}
    (table : StandsAt data offset (lineFigures lines f)) (i : LineNo) :
    (data.drop (offset + 4 * i.val)).take 4 = bytesOf 4 (f (lines.get i)) := by
  have figure := (table.trans (.ofFlatMap (f := fun i => bytesOf 4 (f (lines.get i))) (fun j => length_bytesOf 4 _) i)).slice
  rwa [length_bytesOf] at figure

/-- In a run of parts, each stands where those before it end. -/
theorem StandsAt.ofFlatten {parts : List (List Byte)} {part : List Byte} (k : Nat) (member : parts[k]? = some part) :
    StandsAt parts.flatten ((parts.take k).flatten).length part := by
  obtain ⟨bound, rfl⟩ := List.getElem?_eq_some_iff.mp member
  refine ⟨(parts.take k).flatten, (parts.drop (k + 1)).flatten, ?_, rfl⟩
  rw [← List.flatten_cons, ← List.drop_eq_getElem_cons bound, ← List.flatten_append, List.take_append_drop]

/-- The parts of the READ_STATISTICS buffer, in order (R180). -/
def statisticsParts (c : Capture) : List (List Byte) :=
  [lineFigures c.lines fun l => l.glitchCount, lineFigures c.lines fun l => l.transitionCount,
    lineFigures c.lines fun l => l.shedCount, lineFigures c.lines fun l => l.episodeCount,
    (List.finRange 4).flatMap fun n => tallyBytes (c.tallies.get n), bytesOf 8 (BitVec.ofNat 64 c.highWater),
    bytesOf 8 (word64 c.archive.oldest), bytesOf 8 (word64 c.archive.newest)]

theorem statisticsBuffer_eq (c : Capture) : statisticsBuffer c = (statisticsParts c).flatten := by
  simp only [statisticsBuffer, statisticsParts, List.flatten_cons, List.flatten_nil, List.append_assoc, List.append_nil]

theorem statisticsParts_lengths (c : Capture) :
    (statisticsParts c).map List.length = [192, 192, 192, 192, 32, 8, 8, 8] := by
  simp [statisticsParts, length_lineFigures, List.length_flatMap, length_tallyBytes]

theorem length_statisticsBuffer (c : Capture) : (statisticsBuffer c).length = 824 := by
  rw [statisticsBuffer_eq, List.length_flatten, statisticsParts_lengths]
  rfl

/-- A part of the buffer stands where the lengths of those before it add up to. -/
theorem statisticsPart_stands (c : Capture) {part : List Byte} (k : Nat) (member : (statisticsParts c)[k]? = some part) :
    StandsAt (statisticsBuffer c) (([192, 192, 192, 192, 32, 8, 8, 8].take k).sum) part := by
  rw [statisticsBuffer_eq, ← statisticsParts_lengths c, ← List.map_take, ← List.length_flatten]
  exact .ofFlatten k member

theorem tallyBytes_eq (t : Tally) : tallyBytes t = bytesOf 4 t.count ++ [BitVec.setWidth 8 t.classes, 0, 0, 0] := by
  rw [tallyBytes, bytesOf_setWidth _ (by decide)]
  rfl

/-- R145: a clear leaves everything but the lines and the high-water mark. -/
theorem Capture.clearStatistics_frame (c : Capture) : c.clearStatistics =
    { c with lines := c.clearStatistics.lines, highWater := 0 } := rfl

/-- R144, R145: the figures are captured, then cleared where the flag asks for it. -/
theorem State.readStatistics_readDone (s : State) (h : Attached) (tag : BitVec 16) (address : BitVec 64) (clear : Bool) :
    (s.withHost h.readDone).readStatistics tag address clear =
      ({ s with capture := if clear = true then s.capture.clearStatistics else s.capture } : State).withHost { h.readDone with
        command := .executing 0x08 tag
        due := h.due ++ [{
          source := .buffer, address := address, data := statisticsBuffer s.capture, dueAt := s.capture.elapsed }] } := by
  cases clear with
  | false => exact State.writeBuffer_readDone s h 0x08 tag address _
  | true =>
    rw [State.readStatistics, if_pos rfl, if_pos rfl, State.onCapture, State.withHost_capture, ← Capture.clearStatistics_elapsed]
    generalize s.capture.clearStatistics = cleared
    exact State.writeBuffer_readDone { s with capture := cleared } h 0x08 tag address _

/-- Settles O43: the parts of the buffer add up to the offsets, and the clear flag decides what is left. -/
theorem readStatisticsBuffer : Obligations.ReadStatisticsBuffer := by
  unfold Obligations.ReadStatisticsBuffer
  intro s h read tag address clear r accepted
  have clearRange : clear.toNat ≤ 1 := accepted 3
  have valid := firstFailure_of_accepted (c := .readStatistics ⟨read, tag⟩ address clear) rfl accepted
  have run : exec (.readStatistics ⟨read, tag⟩ address clear) s =
      .next ((s.withHost h.readDone).readStatistics tag address (decide (clear = 1))) := by
    rw [← flag_getLsbD_zero clearRange]
    exact congrArg _ (State.runCommand_carried r valid 0x08 tag _)
  simp only [State.readStatistics_readDone, decide_eq_true_eq] at run
  refine ⟨statisticsBuffer s.capture, _, length_statisticsBuffer s.capture, fun i => ⟨?_, ?_, ?_, ?_⟩, fun n => ?_, ?_, ?_, ?_, run,
    ?_, fun i => ?_⟩
  · have figure := (statisticsPart_stands s.capture 0 rfl).lineFigure i
    rwa [List.take_zero, List.sum_nil, Nat.zero_add] at figure
  · exact (statisticsPart_stands s.capture 1 rfl).lineFigure i
  · exact (statisticsPart_stands s.capture 2 rfl).lineFigure i
  · exact (statisticsPart_stands s.capture 3 rfl).lineFigure i
  · have tally := ((statisticsPart_stands s.capture 4 rfl).trans
      (.ofFlatMap (f := fun n => tallyBytes (s.capture.tallies.get n)) (fun _ => length_tallyBytes _) n)).slice
    rwa [length_tallyBytes, tallyBytes_eq] at tally
  · exact (statisticsPart_stands s.capture 5 rfl).slice
  · exact (statisticsPart_stands s.capture 6 rfl).slice
  · exact (statisticsPart_stands s.capture 7 rfl).slice
  · by_cases clears : clear = 1
    · simp only [if_pos clears]
      exact congrArg (fun c => State.withHost { s with capture := c } _) s.capture.clearStatistics_frame
    · simp only [if_neg clears]
      rfl
  · by_cases clears : clear = 1
    · simp only [if_pos clears]
      exact Capture.line_clearStatistics s.capture i
    · simp only [if_neg clears]
      rfl

end Sys2Proof.Machine
end

section
/-! Proofs about SNAPSHOT_COUNTERS (sections 2.3 and 8.3.7). -/

namespace Sys2Proof.Machine

-- One declaration at a time: the check of the whole text then stays within its memory.
set_option Elab.async false

/-- Two capture sides that differ at most in their lines, and there in none, are the same. -/
theorem Capture.eq_of_lines {c d : Capture} (frame : c = { d with lines := c.lines }) (lines : ∀ i, c.line i = d.line i) : c = d := by
  have same : c.lines = d.lines := Vector.ext fun i range => by
    simpa only [Capture.line, Vector.get_eq_getElem] using lines ⟨i, range⟩
  rw [frame, same]

/-! ### Records handed over one after another (R35, R36) -/

/-- `d` is `c` after records were handed to the staging queue. -/
structure HandedOver (c d : Capture) : Prop where
  frame : d = { c with lines := d.lines, staging := d.staging, highWater := d.highWater, tallies := d.tallies }
  lines : ∀ i, SameButShedCount (c.line i) (d.line i)

theorem HandedOver.refl (c : Capture) : HandedOver c c := ⟨rfl, fun _ => rfl⟩

theorem HandedOver.trans {c d e : Capture} (h : HandedOver c d) (k : HandedOver d e) : HandedOver c e := by
  refine ⟨?_, fun i => (h.lines i).trans (k.lines i)⟩
  rw [k.frame, h.frame]

theorem HandedOver.stage (c : Capture) (e : Entry) : HandedOver c (c.stage e).1 :=
  ⟨(c.stage_frame e).trans rfl, c.stage_line e⟩

theorem Capture.handedAll_handedOver (entries : List Entry) : ∀ c : Capture, HandedOver c (c.handedAll entries).1 := by
  induction entries with
  | nil => exact HandedOver.refl
  | cons e rest ih => exact fun c => (HandedOver.stage c e).trans (ih (c.stage e).1)

theorem Capture.length_handedAll (entries : List Entry) : ∀ c : Capture, (c.handedAll entries).2.length = entries.length := by
  induction entries with
  | nil => exact fun _ => rfl
  | cons e rest ih => exact fun c => congrArg (· + 1) (ih (c.stage e).1)

/-- R60: line records that all find room are all inserted, and nothing is shed. -/
theorem Capture.handedAll_of_room (entries : List Entry) : ∀ c : Capture, (∀ e ∈ entries, e.isLineRecord = true) →
    c.staging.length + entries.length ≤ 512 → lineRecords c.staging + entries.length ≤ 504 →
    (c.handedAll entries).2.count false = 0 ∧ (c.handedAll entries).1.tallies = c.tallies ∧
    (c.handedAll entries).1.staging.Perm (entries ++ c.staging) := by
  induction entries with
  | nil => exact fun c _ _ _ => ⟨rfl, rfl, .refl _⟩
  | cons e rest ih =>
    intro c records all lines
    rw [List.length_cons] at all lines
    have record : e.isLineRecord = true := records e List.mem_cons_self
    have inserted : c.stage e = (c.insert e, true) := by
      obtain ⟨-, inserted⟩ | ⟨-, full, -⟩ := c.stage_cases e
      · exact inserted
      · exact absurd ⟨by omega, by omega⟩ full
    have more : lineRecords (c.insert e).staging = lineRecords c.staging + 1 := by
      rw [Capture.insert_staging, lineRecords_insertByKey, if_pos record]
    obtain ⟨shed, tallies, staged⟩ := ih (c.insert e) (fun x member => records x (List.mem_cons_of_mem _ member))
      (by rw [Capture.insert_staging, insertByKey_length]; omega) (by rw [more]; omega)
    simp only [Capture.handedAll, inserted]
    refine ⟨by rw [List.count_cons_of_ne (by decide), shed], tallies, staged.trans ?_⟩
    calc (rest ++ (c.insert e).staging).Perm (rest ++ e :: c.staging) := (insertByKey_perm e c.staging).append_left rest
      _ |>.Perm (e :: rest ++ c.staging) := List.perm_middle

/-! ### The counters cleared (R36) -/

/-- The line table with the counters of the lines taken so far set to 0, where the snapshot clears. -/
@[irreducible] def linesCleared (clear : Bool) (taken : List LineNo) (lines : Vector Line 48) : Vector Line 48 :=
  Vector.ofFn fun i => if clear = true ∧ i ∈ taken then { lines.get i with counter := 0 } else lines.get i

/-- The capture side with those counters set to 0. -/
def Capture.countersCleared (clear : Bool) (taken : List LineNo) (c : Capture) : Capture :=
  { c with lines := linesCleared clear taken c.lines }

theorem Capture.line_countersCleared (clear : Bool) (taken : List LineNo) (c : Capture) (i : LineNo) :
    (c.countersCleared clear taken).line i = if clear = true ∧ i ∈ taken then { c.line i with counter := 0 } else c.line i := by
  simp [Capture.countersCleared, linesCleared, Capture.line, Vector.get_eq_getElem]

theorem Capture.countersCleared_nil (clear : Bool) (c : Capture) : c.countersCleared clear [] = c :=
  Capture.eq_of_lines rfl fun i => by rw [Capture.line_countersCleared, if_neg fun h => nomatch h.2]

/-- A record handed over leaves the counters, and does not read them. -/
theorem Capture.stage_countersCleared (clear : Bool) (taken : List LineNo) (c : Capture) (e : Entry) :
    (c.countersCleared clear taken).stage e = ((c.stage e).1.countersCleared clear taken, (c.stage e).2) := by
  have shed : ∀ x : Entry, (c.countersCleared clear taken).countShed x = (c.countShed x).countersCleared clear taken := fun x => by
    refine Capture.eq_of_lines rfl fun i => ?_
    rw [Capture.line_countShed, Capture.line_countersCleared, Capture.line_countersCleared, Capture.line_countShed]
    by_cases cleared : clear = true ∧ i ∈ taken
    · simp only [if_pos cleared]
      by_cases counted : x.line = some i
      · simp only [if_pos counted]
      · simp only [if_neg counted]
    · simp only [if_neg cleared]
  have staging : (c.countersCleared clear taken).staging = c.staging := rfl
  simp only [Capture.stage, staging, shed]
  split
  · cases sheddingDecision e c.staging with
    | evict victim rest => rfl
    | discard => rfl
  · rfl

/-- One line taken: its counter is cleared too. -/
theorem Capture.countersCleared_concat (clear : Bool) (taken : List LineNo) (c : Capture) (i : LineNo) :
    (if clear = true then (c.countersCleared clear taken).setLine i { (c.countersCleared clear taken).line i with counter := 0 }
      else c.countersCleared clear taken) = c.countersCleared clear (taken ++ [i]) := by
  cases clear with
  | false => exact Capture.eq_of_lines rfl fun j => by simp [Capture.line_countersCleared]
  | true =>
    rw [if_pos rfl]
    refine Capture.eq_of_lines rfl fun j => ?_
    rw [Capture.line_setLine, Capture.line_countersCleared, Capture.line_countersCleared, Capture.line_countersCleared]
    by_cases same : j = i
    · subst same
      by_cases before : j ∈ taken <;> simp [before]
    · simp [same]

/-! ### The snapshot -/

/-- The record of a line not taken yet is the one that the first instant of the snapshot gives. -/
theorem HandedOver.countRecord {c d : Capture} (handed : HandedOver c d) (clear : Bool) {taken : List LineNo} {i : LineNo}
    (fresh : i ∉ taken) : (d.countersCleared clear taken).lineEntry i .count
        ((d.countersCleared clear taken).line i).qualifier.level (d.countersCleared clear taken).stamp
        (d.countersCleared clear taken).elapsed (((d.countersCleared clear taken).line i).counter.setWidth 64) = c.countRecord i := by
  have line : (d.countersCleared clear taken).line i = d.line i := by
    rw [Capture.line_countersCleared, if_neg fun h => fresh h.2]
  have groups : (d.countersCleared clear taken).groups = c.groups := by
    show d.groups = c.groups
    rw [handed.frame]
  have elapsed : (d.countersCleared clear taken).elapsed = c.elapsed := by
    show d.elapsed = c.elapsed
    rw [handed.frame]
  have stamp : (d.countersCleared clear taken).stamp = c.stamp := by
    show d.stamp = c.stamp
    rw [handed.frame]
    rfl
  rw [Capture.lineEntry, Capture.groupOf, groups, elapsed, stamp, line, handed.lines i, Capture.countRecord,
    BitVec.ofNat_toNat]
  rfl

/-- R35, R36: the snapshot hands over the records of its lines in order, and clears what it has taken. -/
theorem Snapshot.takeLines_eq (c : Capture) (clear : Bool) (rest : List LineNo) : ∀ (d : Capture) (taken : List LineNo) (staged shed : Nat),
    HandedOver c d → rest.Nodup → (∀ i ∈ rest, i ∉ taken) →
    rest.foldl (Snapshot.takeLine clear) { capture := d.countersCleared clear taken, staged := staged, shed := shed } =
      { capture := (d.handedAll (rest.map c.countRecord)).1.countersCleared clear (taken ++ rest)
        staged := staged + (d.handedAll (rest.map c.countRecord)).2.count true
        shed := shed + (d.handedAll (rest.map c.countRecord)).2.count false } := by
  induction rest with
  | nil => exact fun d taken staged shed _ _ _ => by simp [Capture.handedAll]
  | cons i rest ih =>
    intro d taken staged shed handed nodup fresh
    obtain ⟨notLater, nodup⟩ := List.nodup_cons.mp nodup
    have step : Snapshot.takeLine clear { capture := d.countersCleared clear taken, staged := staged, shed := shed } i =
        { capture := (d.stage (c.countRecord i)).1.countersCleared clear (taken ++ [i])
          staged := if (d.stage (c.countRecord i)).2 then staged + 1 else staged
          shed := if (d.stage (c.countRecord i)).2 then shed else shed + 1 } := by
      simp only [Snapshot.takeLine, handed.countRecord clear (fresh i List.mem_cons_self), Capture.countersCleared_concat,
        Capture.stage_countersCleared]
    rw [List.foldl_cons, step, ih _ _ _ _ (handed.trans (.stage d _)) nodup ?later]
    case later =>
      intro j member
      have other : j ≠ i := fun same => notLater (same ▸ member)
      simp [fresh j (List.mem_cons_of_mem _ member), other]
    rw [List.append_assoc, List.singleton_append, List.map_cons, Capture.handedAll]
    cases (d.stage (c.countRecord i)).2 with
    | true => simp [Nat.add_assoc, Nat.add_comm 1]
    | false => simp [Nat.add_assoc, Nat.add_comm 1]

/-- Settles O42: the snapshot is its records handed over in order, with the counters cleared afterwards. -/
theorem snapshotCountersRecords : Obligations.SnapshotCountersRecords := by
  unfold Obligations.SnapshotCountersRecords
  intro s h read tag groupMask clear selected handed r accepted selection handing
  have clearRange : clear.toNat ≤ 1 := accepted 3
  have valid := firstFailure_of_accepted (c := .snapshotCounters ⟨read, tag⟩ groupMask clear) rfl accepted
  have nodup : selected.Nodup := selection ▸ (List.nodup_finRange 48).filter _
  have selects : (List.finRange 48).filter (s.capture.snapshotSelects groupMask) = selected := by
    rw [selection]
    refine List.filter_congr fun i _ => ?_
    simp [Capture.snapshotSelects, Capture.groupOf, Bool.and_assoc]
  have kept := Capture.handedAll_handedOver (selected.map s.capture.countRecord) s.capture
  have snapshot : s.capture.snapshotCounters groupMask (decide (clear = 1)) =
      { capture := handed.1.countersCleared (decide (clear = 1)) selected
        staged := handed.2.count true, shed := handed.2.count false } := by
    have taken := Snapshot.takeLines_eq s.capture (decide (clear = 1)) selected s.capture [] 0 0 (.refl _) nodup (by simp)
    rw [Capture.countersCleared_nil, List.nil_append, Nat.zero_add, Nat.zero_add, ← handing] at taken
    rw [Capture.snapshotCounters, selects, taken]
  rw [← handing] at kept
  refine ⟨?_, ?_, kept.frame, kept.lines, fun all lines => ?_⟩
  · have elapsed : handed.1.elapsed = s.capture.elapsed := by rw [kept.frame]
    calc exec (.snapshotCounters ⟨read, tag⟩ groupMask clear) s
        = .next ((s.withHost h.readDone).snapshotCounters tag groupMask (decide (clear = 1))) := by
          rw [← flag_getLsbD_zero clearRange]
          exact congrArg _ (State.runCommand_carried r valid 0x07 tag _)
      _ = .next ((({ s with capture := handed.1.countersCleared (decide (clear = 1)) selected } : State).withHost h.readDone).complete
            0x07 tag .success (stagedResult (handed.2.count true) (handed.2.count false))) := by
          rw [State.snapshotCounters, State.withHost_capture, snapshot]
          rfl
      _ = _ := by
          rw [State.complete_readDone, bytesOf_stagedResult, ← elapsed, Capture.countersCleared, linesCleared]
          simp only [decide_eq_true_eq]
          rfl
  · rw [List.count_true_add_count_false, handing, Capture.length_handedAll, List.length_map]
  · rw [handing]
    refine Capture.handedAll_of_room _ s.capture (fun e member => ?_) (by rwa [List.length_map]) (by rwa [List.length_map])
    obtain ⟨i, -, rfl⟩ := List.mem_map.mp member
    rfl

end Sys2Proof.Machine
end

section
/-! Proofs about CONFIGURE_LINES (section 1.5 and section 8.3.1): all the masked lines. -/

namespace Sys2Proof.Machine

-- One declaration at a time: the check of the whole text then stays within its memory.
set_option Elab.async false

/-! ### The parameters (R135) -/

/-- The line record that the parameters of a CONFIGURE_LINES spell, in the words of the statement (R135). -/
def spelledConfig (p : LineParams) : LineConfig where
  role := if p.role = 0 then .off else if p.role = 1 then .event else .count
  invert := decide (p.invert = 1)
  report := if p.report = 0 then .none else if p.report = 1 then .rising else if p.report = 2 then .falling else .both
  debounce := p.debounce.toNat
  chatterLimit := p.chatterLimit.toNat
  chatterWindow := p.chatterWindow.toNat
  quietTime := p.quietTime.toNat
  group := Fin.ofNat 8 p.group.toNat

section
variable {p : LineParams}

theorem spelledConfig_off : (spelledConfig p).role = .off ↔ p.role = 0 := by
  unfold spelledConfig
  by_cases h0 : p.role = 0#8
  · simp [h0]
  · by_cases h1 : p.role = 1#8 <;> simp [h0, h1]

theorem spelledConfig_event : (spelledConfig p).role = .event ↔ p.role = 1 := by
  unfold spelledConfig
  by_cases h0 : p.role = 0#8
  · simp [h0]
  · by_cases h1 : p.role = 1#8 <;> simp [h0, h1]

theorem spelledConfig_count (range : p.role ≤ 2) : (spelledConfig p).role = .count ↔ p.role = 2 := by
  unfold spelledConfig
  obtain h | h | h : p.role = 0 ∨ p.role = 1 ∨ p.role = 2 := by bv_omega
  all_goals rw [h]; simp

theorem spelledConfig_reported (range : p.report ≤ 3) (target : Level) : Reported (spelledConfig p).report target ↔
    p.report = 3 ∨ (p.report = 1 ∧ target = true) ∨ (p.report = 2 ∧ target = false) := by
  unfold spelledConfig
  obtain h | h | h | h : p.report = 0 ∨ p.report = 1 ∨ p.report = 2 ∨ p.report = 3 := by bv_omega
  all_goals rw [h]; simp [Reported]

theorem spelledConfig_debounce : (spelledConfig p).debounce = 0 ↔ p.debounce = 0 := BitVec.toNat_eq (x := p.debounce) (y := 0) |>.symm

theorem spelledConfig_chatterLimit : (spelledConfig p).chatterLimit = 0 ↔ p.chatterLimit = 0 :=
  BitVec.toNat_eq (x := p.chatterLimit) (y := 0) |>.symm

end

/-- The table of operand codes of the statement is the one that the command reads. -/
theorem lineConfigOf_eq {read : Nat} {tag : BitVec 16} {p : LineParams} (accepted : Accepted (.configureLines ⟨read, tag⟩ p)) :
    lineConfigOf p = spelledConfig p := by
  have roleRange : p.role.toNat ≤ 2 := accepted 3
  have invertRange : p.invert.toNat ≤ 1 := accepted 4
  have reportRange : p.report.toNat ≤ 3 := accepted 5
  have role : (roleOfCode p.role).getD .off = if p.role = 0 then .off else if p.role = 1 then .event else .count := by
    obtain h | h | h : p.role = 0 ∨ p.role = 1 ∨ p.role = 2 := by bv_omega
    all_goals rw [h]; rfl
  have report : (reportOfCode p.report).getD .both =
      if p.report = 0 then .none else if p.report = 1 then .rising else if p.report = 2 then .falling else .both := by
    obtain h | h | h | h : p.report = 0 ∨ p.report = 1 ∨ p.report = 2 ∨ p.report = 3 := by bv_omega
    all_goals rw [h]; rfl
  rw [lineConfigOf, role, report, flag_getLsbD_zero invertRange, spelledConfig]

/-! ### The horizon (R19) -/

/-- The fold that looks for the largest debounce finds the largest of what it starts from and what it looks at. -/
theorem foldl_largestDebounce (lines : Vector Line 48) (looked : List LineNo) : ∀ m : Nat,
    m ≤ looked.foldl (fun m i => if (lines.get i).config.role = .off then m else max m (lines.get i).config.debounce) m ∧
    (∀ i ∈ looked, (lines.get i).config.role ≠ .off → (lines.get i).config.debounce ≤
      looked.foldl (fun m i => if (lines.get i).config.role = .off then m else max m (lines.get i).config.debounce) m) ∧
    (looked.foldl (fun m i => if (lines.get i).config.role = .off then m else max m (lines.get i).config.debounce) m = m ∨
      ∃ i ∈ looked, (lines.get i).config.role ≠ .off ∧ (lines.get i).config.debounce =
        looked.foldl (fun m i => if (lines.get i).config.role = .off then m else max m (lines.get i).config.debounce) m) := by
  induction looked with
  | nil => exact fun m => ⟨le_rfl, nofun, .inl rfl⟩
  | cons i rest ih =>
    intro m
    rw [List.foldl_cons]
    by_cases off : (lines.get i).config.role = .off
    · obtain ⟨least, most, found⟩ := ih m
      rw [if_pos off]
      refine ⟨least, fun j member on => ?_, found.imp_right fun ⟨j, member, h⟩ => ⟨j, List.mem_cons_of_mem _ member, h⟩⟩
      obtain rfl | member := List.mem_cons.mp member
      · exact absurd off on
      · exact most j member on
    · obtain ⟨least, most, found⟩ := ih (max m (lines.get i).config.debounce)
      rw [if_neg off]
      refine ⟨(le_max_left _ _).trans least, fun j member on => ?_, ?_⟩
      · obtain rfl | member := List.mem_cons.mp member
        · exact (le_max_right _ _).trans least
        · exact most j member on
      · obtain same | ⟨j, member, h⟩ := found
        · obtain le | le := le_total m (lines.get i).config.debounce
          · exact .inr ⟨i, List.mem_cons_self, off, by rw [same, max_eq_right le]⟩
          · exact .inl (by rw [same, max_eq_left le])
        · exact .inr ⟨j, List.mem_cons_of_mem _ member, h⟩

/-- R19: a recomputed horizon is the release margin above the largest debounce of a line not in OFF. -/
theorem Capture.recomputeHorizon_isHorizon (c : Capture) : IsHorizon c.recomputeHorizon := by
  obtain ⟨-, most, found⟩ := foldl_largestDebounce c.lines (List.finRange 48) 0
  refine ⟨fun i on => Nat.add_le_add_right (most i (List.mem_finRange i) on) 500, ?_⟩
  obtain none | ⟨i, -, on, h⟩ := found
  · by_cases all : ∀ i, (c.line i).config.role = .off
    · exact .inl ⟨all, congrArg (· + 500) none⟩
    · obtain ⟨i, on⟩ := not_forall.mp all
      have zero : (c.line i).config.debounce = 0 := Nat.le_zero.mp ((most i (List.mem_finRange i) on).trans none.le)
      exact .inr ⟨i, on, by rw [Capture.line_recomputeHorizon, zero]; exact congrArg (· + 500) none.symm⟩
  · exact .inr ⟨i, on, congrArg (· + 500) h⟩

/-! ### The lines (R15 to R18) -/

/-- R32: a counter is kept within COUNT role alone; elsewhere it was 0 already. -/
theorem Line.Sound.rested_counter {l : Line} (sound : l.Sound) (cfg : LineConfig) :
    (l.rested cfg).counter = if l.config.role = .count ∧ cfg.role = .count then l.counter else 0 := by
  obtain ⟨-, -, -, zero⟩ := sound
  simp only [Line.rested]
  by_cases count : l.config.role = .count
  · simp only [count, true_and, eq_comm]
  · rw [zero count, ite_self, ite_self]

/-- A transition confirmed at once on a line at rest: it opens a chatter window in EVENT role, and counts in COUNT role. -/
theorem Line.confirmed_rested (now : Nat) (target : Level) (l : Line) {cfg : LineConfig} (on : cfg.role ≠ .off) :
    (l.rested cfg).confirmed now target = { l.rested cfg with
      qualifier := .stable target
      transitionCount := satInc l.transitionCount
      chatter := if cfg.role = .event ∧ cfg.chatterLimit ≠ 0 then .counting 1 (now + cfg.chatterWindow * 1000) else .quiet
      counter :=
        if cfg.role = .count ∧ Reported cfg.report target then
          if (l.rested cfg).counter = 0xFFFFFFFF#32 then 0 else BitVec.ofNat 32 ((l.rested cfg).counter.toNat + 1)
        else (l.rested cfg).counter } := by
  have role : (l.rested cfg).config.role = cfg.role := rfl
  cases r : cfg.role with
  | off => exact absurd r on
  | event =>
    simp only [Line.confirmed, role, r, reduceCtorEq, false_and, if_false, true_and]
    by_cases limit : cfg.chatterLimit = 0
    · rw [chatterMonitor_of_noLimit now (l := (l.rested cfg).settledAt target) limit, if_neg (not_not.mpr limit)]
      rfl
    · rw [chatterMonitor_of_quiet now (l := (l.rested cfg).settledAt target)
        ((LineConfig.chatterInForce_iff cfg).mpr ⟨r, limit⟩) rfl, if_pos limit]
      rfl
  | count =>
    simp only [Line.confirmed, role, r, reduceCtorEq, false_and, if_false, true_and, ← counter_succ]
    rfl

section
variable {l : Line} {cfg : LineConfig} (now : Nat) (stamp : Stamp)

theorem Line.reconfigured_of_off (off : cfg.role = .off) :
    l.reconfigured cfg now stamp = { l.rested cfg with qualifier := .off } := if_pos off

theorem Line.reconfigured_of_settled (on : cfg.role ≠ .off) (settled : l.qualifier.moment = none) :
    l.reconfigured cfg now stamp = { l.rested cfg with qualifier := .stable (cfg.logical l.raw) } := by
  rw [Line.reconfigured, if_neg on, if_pos settled]

theorem Line.reconfigured_of_debounced (on : cfg.role ≠ .off) (pending : l.qualifier.moment ≠ none) (debounced : cfg.debounce ≠ 0) :
    l.reconfigured cfg now stamp =
      { l.rested cfg with qualifier := .candidate (!cfg.logical l.raw) (cfg.logical l.raw) now stamp } := by
  rw [Line.reconfigured, if_neg on, if_neg pending, if_neg debounced]

theorem Line.reconfigured_of_atOnce (on : cfg.role ≠ .off) (pending : l.qualifier.moment ≠ none) (atOnce : cfg.debounce = 0) :
    l.reconfigured cfg now stamp = (l.rested cfg).confirmed now (cfg.logical l.raw) := by
  rw [Line.reconfigured, if_neg on, if_neg pending, if_pos atOnce]

/-- What no reconfiguration changes. -/
theorem Line.reconfigured_frame : l.reconfigured cfg now stamp = { l with
    config := cfg
    qualifier := (l.reconfigured cfg now stamp).qualifier
    chatter := (l.reconfigured cfg now stamp).chatter
    counter := (l.reconfigured cfg now stamp).counter
    transitionCount := (l.reconfigured cfg now stamp).transitionCount } := by
  by_cases off : cfg.role = .off
  · rw [Line.reconfigured_of_off now stamp off, Line.rested]
  · by_cases settled : l.qualifier.moment = none
    · rw [Line.reconfigured_of_settled now stamp off settled, Line.rested]
    · by_cases atOnce : cfg.debounce = 0
      · rw [Line.reconfigured_of_atOnce now stamp off settled atOnce, Line.confirmed_rested now _ l off, Line.rested]
      · rw [Line.reconfigured_of_debounced now stamp off settled atOnce, Line.rested]

end

/-- A reconfiguration looks at nothing of the shed count. -/
theorem SameButShedCount.reconfigured {l m : Line} (h : SameButShedCount l m) (cfg : LineConfig) (now : Nat) (stamp : Stamp) :
    SameButShedCount (l.reconfigured cfg now stamp) (m.reconfigured cfg now stamp) := by
  have confirmed := h.confirmed_rested cfg now (cfg.logical l.raw)
  obtain ⟨shed, rfl⟩ := SameButShedCount.iff_exists.mp h
  unfold Line.reconfigured
  by_cases off : cfg.role = .off
  · simp only [if_pos off, Line.rested]
  · by_cases settled : l.qualifier.moment = none
    · simp only [if_neg off, if_pos settled, Line.rested]
    · by_cases atOnce : cfg.debounce = 0
      · simp only [if_neg off, if_neg settled, if_pos atOnce]
        exact confirmed
      · simp only [if_neg off, if_neg settled, if_neg atOnce, Line.rested]

theorem LinesSound.configureLine {c : Capture} (sound : LinesSound c) {cfg : LineConfig} (ranges : cfg.InRange) (i : LineNo) :
    LinesSound (c.configureLine cfg i) := fun j => by
  by_cases h : j = i
  · subst h
    exact (Line.reconfigured_sound c.elapsed c.stamp (sound j) ranges).ofShed (c.configureLine_line cfg (sound j))
  · exact (sound j).ofShed ((ActsOnLine.configureLine i c cfg).2 j h)

/-- R15: lines reconfigured one after another are each reconfigured once, and the others are left as they are. -/
theorem Capture.configureLineFold_line {cfg : LineConfig} (ranges : cfg.InRange) (i : LineNo) (masked : List LineNo) :
    ∀ c : Capture, LinesSound c → masked.Nodup →
    (i ∉ masked → SameButShedCount (c.line i) ((masked.foldl (Capture.configureLine cfg) c).line i)) ∧
    (i ∈ masked → SameButShedCount ((c.line i).reconfigured cfg c.elapsed c.stamp)
      ((masked.foldl (Capture.configureLine cfg) c).line i)) := by
  induction masked with
  | nil => exact fun c _ _ => ⟨fun _ => rfl, nofun⟩
  | cons j rest ih =>
    intro c sound nodup
    obtain ⟨notLater, nodup⟩ := List.nodup_cons.mp nodup
    obtain ⟨frame, others⟩ := ActsOnLine.configureLine j c cfg
    have elapsed : (c.configureLine cfg j).elapsed = c.elapsed := by rw [frame]
    have stamp : (c.configureLine cfg j).stamp = c.stamp := by
      rw [frame]
      rfl
    obtain ⟨outside, inside⟩ := ih (c.configureLine cfg j) (sound.configureLine ranges j) nodup
    rw [elapsed, stamp] at inside
    rw [List.foldl_cons]
    by_cases same : i = j
    · subst same
      exact ⟨fun h => absurd List.mem_cons_self h, fun _ => (c.configureLine_line cfg (sound i)).trans (outside notLater)⟩
    · refine ⟨fun h => (others i same).trans (outside fun member => h (List.mem_cons_of_mem _ member)), fun member => ?_⟩
      exact ((others i same).reconfigured cfg c.elapsed c.stamp).trans (inside ((List.mem_cons.mp member).resolve_left same))

/-! ### The command -/

theorem Capture.configureLines_frame (c : Capture) (mask : BitVec 64) (cfg : LineConfig) : c.configureLines mask cfg = { c with
    lines := (c.configureLines mask cfg).lines, staging := (c.configureLines mask cfg).staging
    highWater := (c.configureLines mask cfg).highWater, tallies := (c.configureLines mask cfg).tallies
    horizon := (c.configureLines mask cfg).horizon } := by
  have frame := (Reworks.configureLineFold c (maskedLines mask) cfg).frame
  unfold Capture.configureLines
  generalize (maskedLines mask).foldl (Capture.configureLine cfg) c = d at frame
  rw [Capture.recomputeHorizon, frame]

theorem mem_maskedLines {mask : BitVec 64} {i : LineNo} : i ∈ maskedLines mask ↔ mask.getLsbD i.val = true := by
  simp only [maskedLines, List.mem_filter, List.mem_finRange, true_and]

/-- R15: each masked line is reconfigured, and the others keep all but their shed counts. -/
theorem Capture.configureLines_line {c : Capture} (sound : LinesSound c) {cfg : LineConfig} (ranges : cfg.InRange) (mask : BitVec 64)
    (i : LineNo) : (mask.getLsbD i.val = false → SameButShedCount (c.line i) ((c.configureLines mask cfg).line i)) ∧
    (mask.getLsbD i.val = true →
      SameButShedCount ((c.line i).reconfigured cfg c.elapsed c.stamp) ((c.configureLines mask cfg).line i)) := by
  obtain ⟨outside, inside⟩ :=
    Capture.configureLineFold_line ranges i (maskedLines mask) c sound ((List.nodup_finRange 48).filter _)
  refine ⟨fun clear => outside fun member => ?_, fun set => inside (mem_maskedLines.mpr set)⟩
  rw [mem_maskedLines, clear] at member
  cases member

/-- R135: a CONFIGURE_LINES that passes validation acts on the capture side and completes with the horizon. -/
theorem exec_configureLines {s : State} {h : Attached} {read : Nat} {tag : BitVec 16} {p : LineParams} (r : ReadInFlight s read h)
    (accepted : Accepted (.configureLines ⟨read, tag⟩ p)) : exec (.configureLines ⟨read, tag⟩ p) s =
      .next ((s.onCapture (Capture.configureLines p.lineMask (lineConfigOf p))).withHost (h.answered s.capture.elapsed 0x01 tag 0x00 0
        (bytesOf 4 (BitVec.ofNat 32 (s.capture.configureLines p.lineMask (lineConfigOf p)).horizon) ++ zeros 20))) := by
  have valid := firstFailure_of_accepted (c := .configureLines ⟨read, tag⟩ p) rfl accepted
  have elapsed : (s.capture.configureLines p.lineMask (lineConfigOf p)).elapsed = s.capture.elapsed := by
    rw [Capture.configureLines_frame]
  refine congrArg _ ((State.runCommand_carried r valid 0x01 tag _).trans ?_)
  calc (s.withHost h.readDone).configureLines tag p
      = ((s.onCapture (Capture.configureLines p.lineMask (lineConfigOf p))).withHost h.readDone).complete 0x01 tag .success
          (horizonResult (s.capture.configureLines p.lineMask (lineConfigOf p)).horizon) := rfl
    _ = _ := by rw [State.complete_readDone, bytesOf_horizonResult, State.onCapture_capture, elapsed]; rfl


/-- Settles O16: every masked line is reconfigured once, in order, and the horizon is recomputed over what is left. -/
theorem configureLinesAccepted : Obligations.ConfigureLinesAccepted := by
  unfold Obligations.ConfigureLinesAccepted
  intro s h read tag p cfg r accepted sound spelled
  have roleRange : p.role ≤ 2 := accepted 3
  have reportRange : p.report ≤ 3 := accepted 5
  have valid := firstFailure_of_accepted (c := .configureLines ⟨read, tag⟩ p) rfl accepted
  have ranges : (lineConfigOf p).InRange := lineConfigOf_inRange valid
  have run := exec_configureLines r accepted
  obtain rfl : cfg = spelledConfig p := spelled
  rw [lineConfigOf_eq accepted] at run ranges
  have lines := Capture.configureLines_line sound ranges p.lineMask
  refine ⟨_, run, rfl, Capture.configureLines_frame _ _ _, Capture.recomputeHorizon_isHorizon _, fun i => (lines i).1,
    fun i masked => ?_⟩
  obtain ⟨shed, line⟩ := SameButShedCount.iff_exists.mp ((lines i).2 masked)
  have counter := (sound i).rested_counter (spelledConfig p)
  simp only [spelledConfig_count roleRange] at counter
  rw [State.withHost_capture, State.onCapture_capture, line]
  refine ⟨?config, ?raw, ?glitches, ?episodes, fun off => ?off, fun on settled => ?settled, fun on pending debounced => ?debounced,
    fun on pending atOnce => ?atOnce⟩
  case config | raw | glitches | episodes => rw [Line.reconfigured_frame]
  case off =>
    have isOff := spelledConfig_off.mpr off
    have notCount : ¬ p.role = 2 := by rw [off]; decide
    rw [Line.reconfigured_of_off _ _ isOff]
    exact ⟨rfl, rfl, counter.trans (if_neg fun both => notCount both.2), rfl⟩
  case settled =>
    rw [Line.reconfigured_of_settled _ _ (mt spelledConfig_off.mp on) settled]
    exact ⟨rfl, rfl, rfl, counter⟩
  case debounced =>
    rw [Line.reconfigured_of_debounced _ _ (mt spelledConfig_off.mp on) pending (mt spelledConfig_debounce.mp debounced)]
    exact ⟨rfl, rfl, rfl, counter⟩
  case atOnce =>
    rw [Line.reconfigured_of_atOnce _ _ (mt spelledConfig_off.mp on) pending (spelledConfig_debounce.mpr atOnce),
      Line.confirmed_rested _ _ _ (mt spelledConfig_off.mp on)]
    refine ⟨rfl, rfl, ?_, fun kept keeps => ?_⟩
    · exact if_congr (and_congr spelledConfig_event (not_congr spelledConfig_chatterLimit)) rfl rfl
    · rw [keeps, ← counter]
      exact if_congr (and_congr (spelledConfig_count roleRange) (spelledConfig_reported reportRange _)) rfl rfl

end Sys2Proof.Machine
end

section
/-! Proofs about the check codes and the archive (sections 6.1 and 6.4). -/

namespace Sys2Proof.Machine

-- One declaration at a time: the check of the whole text then stays within its memory.
set_option Elab.async false

/-! ### A register under a generator -/

/-- A register shifted left by one under a generator. -/
def shiftedUnder {w : Nat} (generator : BitVec w) (x : BitVec w) : BitVec w :=
  if x.msb = true then x <<< 1 ^^^ generator else x <<< 1

/-- A register that takes one bit at its high end is the register with the bit added there, shifted. -/
theorem shiftedUnder_xor {w : Nat} (generator r d : BitVec w) : shiftedUnder generator (r ^^^ d) =
    (if r.msb = d.msb then r <<< 1 else r <<< 1 ^^^ generator) ^^^ d <<< 1 := by
  unfold shiftedUnder
  rw [BitVec.msb_xor, BitVec.shiftLeft_xor_distrib]
  cases r.msb <;> cases d.msb <;> simp [BitVec.xor_assoc, BitVec.xor_comm (d <<< 1)]

/-! ### The CRC-16 (R95) -/

/-- One byte into the CRC-16, taken whole at the high end: after `k` bits, what is left of it is still to come. -/
theorem crc16_bits (r : BitVec 16) (b : Byte) (k : Nat) (within : k ≤ 8) :
    (List.range k).foldl (fun (x : BitVec 16) _ => shiftedUnder 0x1021#16 x) (r ^^^ (b.setWidth 16 : BitVec 16) <<< (8 : Nat)) =
      (List.range k).foldl (fun r i => crc16Bit r (b.getLsbD (7 - i))) r ^^^ (b.setWidth 16 : BitVec 16) <<< (8 + k) := by
  induction k with
  | zero => rfl
  | succ k ih =>
    have top : ((b.setWidth 16 : BitVec 16) <<< (8 + k)).msb = b.getLsbD (7 - k) := by
      rw [BitVec.msb_eq_getLsbD_last, BitVec.getLsbD_shiftLeft, BitVec.getLsbD_setWidth, show 16 - 1 - (8 + k) = 7 - k by omega]
      simp (disch := omega) [show ¬ (16 - 1 < 8 + k) by omega, show 7 - k < 16 by omega]
    rw [List.range_succ, List.foldl_append, List.foldl_append, ih (by omega), List.foldl_cons, List.foldl_nil, List.foldl_cons,
      List.foldl_nil, shiftedUnder_xor, top, ← BitVec.shiftLeft_add]
    rfl

/-- R95: the CRC-16 in the form that takes each byte whole. -/
theorem crc16_eq (bytes : List Byte) : crc16 bytes = bytes.foldl
    (fun (r : BitVec 16) b => (List.range 8).foldl (fun (x : BitVec 16) _ => shiftedUnder 0x1021#16 x)
      (r ^^^ (b.setWidth 16 : BitVec 16) <<< (8 : Nat))) 0xFFFF#16 := by
  have byte : ∀ (r : BitVec 16) (b : Byte), crc16Byte r b = (List.range 8).foldl (fun (x : BitVec 16) _ => shiftedUnder 0x1021#16 x)
      (r ^^^ (b.setWidth 16 : BitVec 16) <<< (8 : Nat)) := fun r b => by
    rw [crc16_bits r b 8 le_rfl, BitVec.shiftLeft_eq_zero (by decide), BitVec.xor_zero]
    rfl
  simp only [crc16, ← byte]

/-! ### The CRC-32 (R107) -/

theorem getLsbD_reflect32 (x : BitVec 32) (k : Nat) (range : k < 32) : (reflect32 x).getLsbD k = x.getLsbD (31 - k) := by
  rw [reflect32, getLsbD_fillMask (fun i => 31 - i) (fun i => x.getLsbD i) k range, Bool.eq_iff_iff]
  simp only [BitVec.ofNat_eq_ofNat, BitVec.getLsbD_zero, Bool.false_or, List.any_eq_true, List.mem_range, Bool.and_eq_true,
    decide_eq_true_eq]
  constructor
  · rintro ⟨i, bound, place, set⟩
    rwa [show 31 - k = i by omega]
  · exact fun set => ⟨31 - k, by omega, by omega, set⟩

theorem reflect32_xor (x y : BitVec 32) : reflect32 (x ^^^ y) = reflect32 x ^^^ reflect32 y :=
  BitVec.eq_of_getLsbD_eq fun k range => by
    simp only [BitVec.getLsbD_xor, getLsbD_reflect32 _ k range]

theorem reflect32_shiftLeft (x : BitVec 32) : reflect32 (x <<< 1) = reflect32 x >>> 1 := by
  refine BitVec.eq_of_getLsbD_eq fun k range => ?_
  rw [getLsbD_reflect32 _ k range, BitVec.getLsbD_ushiftRight, BitVec.getLsbD_shiftLeft]
  by_cases last : k = 31
  · subst last
    simp
  · rw [getLsbD_reflect32 x (1 + k) (by omega), show 31 - k - 1 = 31 - (1 + k) by omega]
    simp [show 31 - k < 32 by omega, show ¬ (31 - k < 1) by omega]

/-- A register shifted right by one under the reflected generator. -/
def shiftedRight (x : BitVec 32) : BitVec 32 := if x.getLsbD 0 then x >>> 1 ^^^ 0xEDB88320#32 else x >>> 1

/-- A reflected register that takes one bit at its low end. -/
theorem shiftedRight_xor (r d : BitVec 32) :
    shiftedRight (reflect32 r ^^^ d) = reflect32 (crc32Bit r (d.getLsbD 0)) ^^^ d >>> 1 := by
  have low : (reflect32 r).getLsbD 0 = r.msb := by rw [getLsbD_reflect32 r 0 (by decide), BitVec.msb_eq_getLsbD_last]
  have generator : reflect32 0x04C11DB7#32 = 0xEDB88320#32 := by decide
  rw [shiftedRight, BitVec.getLsbD_xor, low, BitVec.ushiftRight_xor_distrib, crc32Bit]
  cases r.msb <;> cases d.getLsbD 0 <;>
    simp [reflect32_xor, reflect32_shiftLeft, generator, BitVec.xor_assoc, BitVec.xor_comm (d >>> 1)]

theorem crc32_bits (r : BitVec 32) (b : Byte) (k : Nat) :
    (List.range k).foldl (fun x _ => shiftedRight x) (reflect32 r ^^^ b.setWidth 32) =
      reflect32 ((List.range k).foldl (fun r i => crc32Bit r (b.getLsbD i)) r) ^^^ b.setWidth 32 >>> k := by
  induction k with
  | zero => rfl
  | succ k ih =>
    have bit : (b.setWidth 32 >>> k).getLsbD 0 = b.getLsbD k := by
      rw [BitVec.getLsbD_ushiftRight, BitVec.getLsbD_setWidth, Nat.add_zero]
      by_cases range : k < 8
      · simp [show k < 32 by omega]
      · simp [BitVec.getLsbD_of_ge b k (by omega)]
    rw [List.range_succ, List.foldl_append, List.foldl_append, ih, List.foldl_cons, List.foldl_nil, List.foldl_cons, List.foldl_nil,
      shiftedRight_xor, bit, ← BitVec.shiftRight_add]

theorem crc32Feed_append (r : BitVec 32) (a b : List Byte) : crc32Feed r (a ++ b) = crc32Feed (crc32Feed r a) b :=
  List.foldl_append

/-- A run of bytes into the reflected register. -/
theorem reflect32_crc32Feed (bytes : List Byte) : ∀ r : BitVec 32, reflect32 (crc32Feed r bytes) =
    bytes.foldl (fun r b => (List.range 8).foldl (fun x _ => shiftedRight x) (r ^^^ b.setWidth 32)) (reflect32 r) := by
  induction bytes with
  | nil => exact fun _ => rfl
  | cons b rest ih =>
    intro r
    have consumed : (b.setWidth 32 : BitVec 32) >>> 8 = 0#32 := by bv_omega
    rw [List.foldl_cons, crc32_bits r b 8, consumed, BitVec.xor_zero]
    exact ih (crc32Byte r b)

/-- Settles O37: the register and its reflection take the same bits at opposite ends. -/
theorem crc32IsTheReflectedCrc : Obligations.Crc32IsTheReflectedCrc := by
  unfold Obligations.Crc32IsTheReflectedCrc
  refine ⟨fun bytes => ?_, by decide, by decide +kernel, crc32Feed_append⟩
  have initial : reflect32 crc32Initial = 0xFFFFFFFF#32 := by decide
  rw [crc32Final, reflect32_crc32Feed, initial]
  rfl

/-! ### Appending and disturbing (R94, R96, R98) -/

theorem Archive.find_eq {a : Archive} {b : ArchiveBounds} (bounds : a.bounds = some b) (q : Nat) :
    a.find q = if b.oldest ≤ q ∧ q ≤ b.newest then a.entries[q - b.oldest]? else none := by
  rw [Archive.find, bounds]

theorem Archive.full_iff {c : Capture} (sound : ArchiveSound c) : c.archive.full = true ↔ c.archive.entries.length = 16384 := by
  have capacity : c.archive.entries.length ≤ 16384 := by
    unfold ArchiveSound at sound
    cases bounds : c.archive.bounds with
    | none =>
      simp only [bounds] at sound
      simp [sound.1]
    | some b =>
      simp only [bounds] at sound
      exact sound.2.2.2.2
  rw [Archive.full, decide_eq_true_iff]
  show 16384 ≤ _ ↔ _
  omega

/-- R94, R96: an append leaves every other number with its entry, but for the oldest of a full archive. -/
theorem Archive.find_append_other {c : Capture} (sound : ArchiveSound c) (record : Record32) {q : Nat} (other : q ≠ c.sequence) :
    (c.archive.append c.sequence record).find q =
      if c.archive.entries.length = 16384 ∧ q = c.sequence - 16384 then none else c.archive.find q := by
  have full := Archive.full_iff sound
  unfold ArchiveSound at sound
  cases bounds : c.archive.bounds with
  | none =>
    simp only [bounds] at sound
    have appended : (c.archive.append c.sequence record).bounds = some { oldest := c.sequence, newest := c.sequence } := by
      simp only [Archive.append, bounds]
    have empty : c.archive.find q = none := by rw [Archive.find, bounds]
    rw [Archive.find_eq appended, if_neg (by simp only; omega), empty, ite_self]
  | some b =>
    simp only [bounds] at sound
    obtain ⟨positive, ordered, newest, length, capacity⟩ := sound
    have appended : (c.archive.append c.sequence record).bounds =
        some { oldest := if c.archive.full then b.oldest + 1 else b.oldest, newest := c.sequence } := by
      simp only [Archive.append, bounds]
    have entries : (c.archive.append c.sequence record).entries =
        (if c.archive.full then c.archive.entries.drop 1 else c.archive.entries) ++ [{ record := record, code := checkCode record }] := rfl
    rw [Archive.find_eq appended, Archive.find_eq bounds, entries]
    by_cases isFull : c.archive.full = true
    · have size := full.mp isFull
      simp only [if_pos isFull, size, true_and]
      by_cases removed : q = c.sequence - 16384
      · rw [if_pos removed, if_neg (by omega)]
      · rw [if_neg removed]
        by_cases held : b.oldest ≤ q ∧ q ≤ b.newest
        · rw [if_pos (by omega), if_pos held, List.getElem?_append_left (by rw [List.length_drop]; omega), List.getElem?_drop,
            show 1 + (q - (b.oldest + 1)) = q - b.oldest by omega]
        · rw [if_neg (by omega), if_neg held]
    · have size := mt full.mpr isFull
      simp only [if_neg isFull, size, false_and, if_false]
      by_cases held : b.oldest ≤ q ∧ q ≤ b.newest
      · rw [if_pos (by omega), if_pos held, List.getElem?_append_left (by omega)]
      · rw [if_neg (by omega), if_neg held]

/-- R96: the oldest entry moves with its removal from a full archive. -/
theorem Archive.oldest_append {c : Capture} (sound : ArchiveSound c) (record : Record32) :
    (c.archive.append c.sequence record).oldest = if c.archive.entries = [] then c.sequence
      else if c.archive.entries.length = 16384 then c.archive.oldest + 1 else c.archive.oldest := by
  simp only [← Archive.full_iff sound]
  unfold ArchiveSound at sound
  cases bounds : c.archive.bounds with
  | none =>
    simp only [bounds] at sound
    simp only [Archive.oldest, Archive.append, bounds, if_pos sound.1]
  | some b =>
    simp only [bounds] at sound
    obtain ⟨-, ordered, -, length, -⟩ := sound
    have held : c.archive.entries ≠ [] := List.ne_nil_of_length_pos (by omega)
    simp only [Archive.oldest, Archive.append, bounds, if_neg held]

theorem Archive.length_append {c : Capture} (sound : ArchiveSound c) (record : Record32) :
    (c.archive.append c.sequence record).entries.length ≤ 16384 := by
  have full := Archive.full_iff sound
  have capacity : c.archive.entries.length ≤ 16384 := by
    unfold ArchiveSound at sound
    split at sound
    · simp [sound.1]
    · exact sound.2.2.2.2
  simp only [Archive.append, List.length_append, List.length_singleton]
  split
  · rw [List.length_drop]
    omega
  · rename_i notFull
    have size := mt full.mpr notFull
    omega

/-- Settles O30: the check code in its two forms, and the archive before and after an append. -/
theorem archiveAppendKeepsEntries : Obligations.ArchiveAppendKeepsEntries := by
  unfold Obligations.ArchiveAppendKeepsEntries
  refine ⟨fun bytes => ?_, by decide +kernel, fun _ => rfl, fun c record sound => ?_⟩
  · rw [crc16_eq]
    simp only [shiftedUnder, BitVec.msb_eq_getLsbD_last]
  · exact ⟨(Archive.find_append sound record).1, fun q other => Archive.find_append_other sound record other,
      (Archive.find_append sound record).2, Archive.oldest_append sound record, Archive.length_append sound record⟩

/-- R98: a disturbance replaces what is stored of one entry. -/
theorem Archive.find_disturb {a : Archive} {q : Nat} (held : (a.find q).isSome = true) (record : Record32) (code : BitVec 16) (p : Nat) :
    (a.disturb q record code).find p = if p = q then some { record := record, code := code } else a.find p := by
  cases bounds : a.bounds with
  | none => simp [Archive.find, bounds] at held
  | some b =>
    rw [Archive.find_eq bounds] at held
    by_cases inside : b.oldest ≤ q ∧ q ≤ b.newest
    · rw [if_pos inside] at held
      have index : q - b.oldest < a.entries.length := by
        by_contra beyond
        rw [List.getElem?_eq_none (Nat.not_lt.mp beyond)] at held
        cases held
      have disturbed : a.disturb q record code =
          { a with entries := a.entries.set (q - b.oldest) { record := record, code := code } } := by
        simp only [Archive.disturb, bounds, if_pos inside]
      have kept : (a.disturb q record code).bounds = some b := by rw [disturbed, bounds]
      rw [Archive.find_eq kept, Archive.find_eq bounds, disturbed]
      by_cases same : p = q
      · subst same
        rw [if_pos inside, if_pos rfl, List.getElem?_set_self index]
      · rw [if_neg same]
        by_cases range : b.oldest ≤ p ∧ p ≤ b.newest
        · rw [if_pos range, if_pos range, List.getElem?_set_ne (by omega)]
        · rw [if_neg range, if_neg range]
    · rw [if_neg inside] at held
      cases held

theorem Archive.disturb_of_outside {a : Archive} {q : Nat} (outside : ∀ b, a.bounds = some b → q < b.oldest ∨ b.newest < q)
    (record : Record32) (code : BitVec 16) : a.disturb q record code = a := by
  unfold Archive.disturb
  split
  · rfl
  · rename_i b bounds
    rw [if_neg]
    have := outside b bounds
    omega

theorem Archive.disturb_frame (a : Archive) (q : Nat) (record : Record32) (code : BitVec 16) :
    a.disturb q record code = { a with entries := (a.disturb q record code).entries } :=
  congrArg (fun b => ({ bounds := b, entries := (a.disturb q record code).entries } : Archive)) (a.disturb_bounds q record code).1

/-- Settles O31: the entry named is replaced where it is held, and nothing is where it is not. -/
theorem retentionDisturbanceChangesOneEntry : Obligations.RetentionDisturbanceChangesOneEntry := by
  unfold Obligations.RetentionDisturbanceChangesOneEntry
  intro s q record code
  have fixed : s.capture.archive.disturb q record code = s.capture.archive →
      s.onCapture (fun c => { c with archive := c.archive.disturb q record code }) = s := fun same =>
    State.onCapture_of_fixed (by rw [same])
  refine ⟨s.onCapture fun c => { c with archive := c.archive.disturb q record code }, rfl, ?_, fun held => ?_, fun none => ?_,
    fun b bounds outside => ?_⟩
  · exact congrArg (fun a => { s with capture := { s.capture with archive := a } }) (s.capture.archive.disturb_frame q record code)
  · refine ⟨(Archive.find_disturb held record code q).trans (if_pos rfl), fun p other => ?_⟩
    exact (Archive.find_disturb held record code p).trans (if_neg other)
  · exact fixed (Archive.disturb_of_outside (fun b bounds => by rw [none] at bounds; cases bounds) record code)
  · exact fixed (Archive.disturb_of_outside (fun b' bounds' => Option.some.inj (bounds.symm.trans bounds') ▸ outside) record code)

end Sys2Proof.Machine
end

section
/-! Proofs about the archive engine (sections 6.2 to 6.6): the take, the reads, the grant and an abort. -/

namespace Sys2Proof.Machine

-- One declaration at a time: the check of the whole text then stays within its memory.
set_option Elab.async false

/-! ### The completions of the engine (R105, R108) -/

theorem ArchiveContext.finishedStatus_code (x : ArchiveContext) :
    x.finishedStatus.code = if x.firstRequested < x.rangeStart then 0x07 else 0x00 :=
  apply_ite Status.code _ _ _

/-- The engine ends a REPLAY. -/
theorem Attached.end_replay (h : Attached) (x : ArchiveContext) (status : Status) (now : Nat) :
    h.endArchiveCommand (replayCompletion x status) now =
      { h with archiveEngine := .idle }.completed now 0x09 x.tag status.code 0
        (bytesOf 8 (word64 (if x.done = 0 then 0 else x.rangeStart)) ++ bytesOf 4 (BitVec.ofNat 32 x.done) ++
          bytesOf 4 (BitVec.ofNat 32 x.failures) ++ zeros 8) := by
  rw [Attached.endArchiveCommand, Attached.handCompletion_eq, replayCompletion, bytesOf_replayResult]
  rfl

/-- The engine ends a VERIFY_ARCHIVE. -/
theorem Attached.end_verify (h : Attached) (x : ArchiveContext) (crc : BitVec 32) (status : Status) (now : Nat) :
    h.endArchiveCommand (verifyCompletion x crc status) now =
      { h with archiveEngine := .idle }.completed now 0x0A x.tag status.code 0
        (bytesOf 8 (word64 (if x.done = 0 then 0 else x.rangeStart)) ++ bytesOf 4 (BitVec.ofNat 32 x.done) ++
          bytesOf 4 (BitVec.ofNat 32 x.failures) ++ bytesOf 4 (crc32Final crc) ++ zeros 4) := by
  rw [Attached.endArchiveCommand, Attached.handCompletion_eq, verifyCompletion, bytesOf_verifyResult]
  rfl

/-- A completion with no result. -/
theorem Attached.hand_plain (h : Attached) (kind : Byte) (tag : BitVec 16) (status : Status) (now : Nat) :
    h.handCompletion (.plain kind tag status) now = h.completed now kind tag status.code 0 (zeros 24) := by
  rw [Attached.handCompletion_eq, Completion.plain, bytesOf_zero]

/-! ### The take (R100, R101) -/

/-- What a take answers, or the engine it starts, where the engine is idle. -/
def Attached.takeRange (a : Archive) (kind : Byte) (tag : BitVec 16) (first count now : Nat) (engine : ArchiveContext → ArchiveEngine)
    (h : Attached) : Attached :=
  match a.bounds with
  | none => h.completed now kind tag 0x08 0 (zeros 24)
  | some b =>
    if b.newest < first then h.completed now kind tag 0x08 0 (zeros 24)
    else if min (first + count - 1) b.newest < max first b.oldest then h.completed now kind tag 0x07 0 (zeros 24)
    else
      { h with archiveEngine := engine (.fresh tag first (max first b.oldest) (min (first + count - 1) b.newest) now) }

theorem Attached.takeRange_eq (a : Archive) (kind : Byte) (tag : BitVec 16) (first count now : Nat)
    (engine : ArchiveContext → ArchiveEngine) (h : Attached) : h.takeRange a kind tag first count now engine =
      match a.range first count with
      | .future => h.handCompletion (.plain kind tag .rangeFuture) now
      | .gone => h.handCompletion (.plain kind tag .rangeGone) now
      | .run rangeStart rangeEnd => { h with archiveEngine := engine (.fresh tag first rangeStart rangeEnd now) } := by
  unfold Attached.takeRange Archive.range
  cases a.bounds with
  | none => exact (h.hand_plain kind tag .rangeFuture now).symm
  | some b =>
    by_cases future : b.newest < first
    · simp only [if_pos future]
      exact (h.hand_plain kind tag .rangeFuture now).symm
    · by_cases gone : min (first + count - 1) b.newest < max first b.oldest
      · simp only [if_neg future, if_pos gone]
        exact (h.hand_plain kind tag .rangeGone now).symm
      · simp only [if_neg future, if_neg gone]

theorem Attached.takeReplay_eq (a : Archive) (tag : BitVec 16) (first count : Nat) (n : RingNo) (now : Nat) (h : Attached) :
    h.takeReplay a tag first count n now =
      if h.eventRing n = none then h.completed now 0x09 tag 0x04 0 (zeros 24)
      else if h.archiveEngine ≠ .idle then h.completed now 0x09 tag 0x03 0 (zeros 24)
      else h.takeRange a 0x09 tag first count now fun x => .replaying x n none := by
  unfold Attached.takeReplay
  by_cases absent : h.eventRing n = none
  · rw [if_pos absent, if_pos absent]
    exact h.hand_plain 0x09 tag .ringAbsent now
  · rw [if_neg absent, if_neg absent]
    cases engine : h.archiveEngine with
    | idle =>
      rw [if_neg (not_not.mpr rfl), Attached.takeRange_eq]
      rfl
    | replaying x m copy => exact h.hand_plain 0x09 tag .engineBusy now
    | verifying x crc => exact h.hand_plain 0x09 tag .engineBusy now

theorem Attached.takeVerify_eq (a : Archive) (tag : BitVec 16) (first count now : Nat) (h : Attached) :
    h.takeVerify a tag first count now =
      if h.archiveEngine ≠ .idle then h.completed now 0x0A tag 0x03 0 (zeros 24)
      else h.takeRange a 0x0A tag first count now fun x => .verifying x 0xFFFFFFFF := by
  unfold Attached.takeVerify
  cases engine : h.archiveEngine with
  | idle =>
    rw [if_neg (not_not.mpr rfl), Attached.takeRange_eq]
    rfl
  | replaying x m copy => exact h.hand_plain 0x0A tag .engineBusy now
  | verifying x crc => exact h.hand_plain 0x0A tag .engineBusy now

/-- Settles O32: the tests of a take in their order. -/
theorem archiveCommandTaken : Obligations.ArchiveCommandTaken := by
  unfold Obligations.ArchiveCommandTaken
  intro s h read tag first count r
  refine ⟨fun ring n accepted names => ?_, fun accepted => ?_⟩
  · have valid := firstFailure_of_accepted (c := .replay ⟨read, tag⟩ first count ring) rfl accepted
    have taken := Attached.takeReplay_eq s.capture.archive tag first.toNat count.toNat n s.capture.elapsed h.readDone
    refine congrArg _ ((State.runCommand_carried r valid 0x09 tag _).trans ?_)
    rw [names, Fin.ofNat_val_eq_self]
    exact (State.onHost_attached _ _ (State.withHost_session _ _)).trans (congrArg s.withHost taken)
  · have valid := firstFailure_of_accepted (c := .verifyArchive ⟨read, tag⟩ first count) rfl accepted
    have taken := Attached.takeVerify_eq s.capture.archive tag first.toNat count.toNat s.capture.elapsed h.readDone
    refine congrArg _ ((State.runCommand_carried r valid 0x0A tag _).trans ?_)
    exact (State.onHost_attached _ _ (State.withHost_session _ _)).trans (congrArg s.withHost taken)

/-! ### The reads (R102, R104, R106) -/

/-- A number below the oldest has been removed. -/
theorem Archive.find_of_removed {a : Archive} {b : ArchiveBounds} (bounds : a.bounds = some b) {q : Nat} (removed : q < b.oldest) :
    a.find q = none := by
  rw [Archive.find_eq bounds, if_neg fun held => Nat.not_le.mpr removed held.1]

/-- Settles O33: the archive holds the next entry, or has overtaken the command. -/
theorem replayReadKeepsCopy : Obligations.ReplayReadKeepsCopy := by
  unfold Obligations.ReplayReadKeepsCopy
  intro s h x n attached engine
  have run : exec .replayRead s = .next (s.withHost (h.replayRead s.capture.archive s.capture.elapsed)) :=
    congrArg _ (State.onHost_attached s _ attached)
  refine ⟨fun e found => ?_, fun b bounds removed => ?_⟩
  · rw [run, Attached.replayRead]
    simp only [engine, found]
    rfl
  · rw [run, Attached.replayRead]
    simp only [engine, Archive.find_of_removed bounds removed, Attached.end_replay]
    rfl

/-- Settles O35: the archive holds the next entry, which may be the last of the range, or has overtaken the command. -/
theorem verifyReadCoversEntry : Obligations.VerifyReadCoversEntry := by
  unfold Obligations.VerifyReadCoversEntry
  intro s h x crc attached engine
  have run : exec .verifyRead s = .next (s.withHost (h.verifyRead s.capture.archive s.capture.elapsed)) :=
    congrArg _ (State.onHost_attached s _ attached)
  refine ⟨fun e found => ?_, fun b bounds removed => ?_⟩
  · refine ⟨_, _, rfl, rfl, ?_⟩
    have failures : (if e.mismatch then x.failures + 1 else x.failures) =
        x.failures + (if checkCode e.record = e.code then 0 else 1) := by
      by_cases passes : checkCode e.record = e.code <;> simp [ArchiveEntry.mismatch, passes]
    rw [run, Attached.verifyRead]
    simp only [engine, found, Attached.end_verify, ArchiveContext.granted, failures, ArchiveContext.finishedStatus_code,
      Nat.succ_ne_zero, if_false]
  · rw [run, Attached.verifyRead]
    simp only [engine, Archive.find_of_removed bounds removed, Attached.end_verify]
    rfl

/-! ### The grant (R102, R103, R125) -/

/-- Settles O34: the arbiter's grant delivers the copy, and the context moves on or ends. -/
theorem replayGrantDeliversCopy : Obligations.ReplayGrantDeliversCopy := by
  unfold Obligations.ReplayGrantDeliversCopy
  intro s h x n copy r attached engine ring
  have attachedRing : s.attachedRing n = some r := by
    rw [State.attachedRing, attached]
    exact ring
  have grants : s.grantsCopy n = true ↔ r.occupied < r.size - 1 ∧ ¬ LiveClaimFor s.capture n := by
    rw [State.grantsCopy_iff]
    simp only [attachedRing, Option.some.injEq, exists_eq_left']
  refine ⟨fun ⟨free, noClaim⟩ => ?_, fun waits => ?_⟩
  · have granted : s.grantsCopy n = true := grants.mpr ⟨free, fun ⟨e, first, eligible⟩ =>
      Nat.not_le.mpr (noClaim e first) eligible⟩
    have failures : (if copy.failed then x.failures + 1 else x.failures) = x.failures + copy.failed.toNat := by
      cases copy.failed <;> rfl
    refine ⟨_, rfl, ?_⟩
    have bytes := bytesOf_withFlags r.phase true copy.failed copy.record
    refine congrArg _ ((State.onHost_attached s _ attached).trans (congrArg s.withHost ?_))
    simp only [engine, if_pos granted, Attached.replayAdvance, Attached.end_replay, ArchiveContext.granted, failures,
      ArchiveContext.finishedStatus_code, Nat.succ_ne_zero, if_false]
    rw [Attached.claimSlot_present h ring, bytes]
    rfl
  · have refused : ¬ s.grantsCopy n = true := fun granted => by
      obtain ⟨free, noClaim⟩ := grants.mp granted
      obtain full | ⟨e, first, eligible⟩ := waits
      · omega
      · exact noClaim ⟨e, first, eligible⟩
    refine congrArg _ (State.onHost_of_fixed fun g attached' => ?_)
    obtain rfl : h = g := Session.attached.inj (attached.symm.trans attached')
    simp only [engine, if_neg refused]

/-! ### An abort (R110) -/

/-- Settles O36: the running command of the target tag, or none, answers the abort. -/
theorem abortEndsRunningCommand : Obligations.AbortEndsRunningCommand := by
  unfold Obligations.AbortEndsRunningCommand
  intro s h read tag target r accepted
  have valid := firstFailure_of_accepted (c := .abort ⟨read, tag⟩ target) rfl accepted
  have run : exec (.abort ⟨read, tag⟩ target) s = .next (s.withHost (h.readDone.abort tag target s.capture.elapsed)) :=
    congrArg _ ((State.runCommand_carried r valid 0x0B tag _).trans (State.onHost_attached _ _ (State.withHost_session _ _)))
  have same : h.readDone.archiveEngine = h.archiveEngine := rfl
  refine ⟨fun x n copy engine named => ?_, fun x crc engine named => ?_, fun noReplay noVerify => ?_⟩
  · have ends : h.archiveEngine.abortedCompletion target = some (replayCompletion x .aborted) := by
      rw [engine]
      exact if_pos named
    rw [run, Attached.abort, same, ends]
    simp only [Attached.end_replay, Attached.hand_plain, named]
    rfl
  · have ends : h.archiveEngine.abortedCompletion target = some (verifyCompletion x crc .aborted) := by
      rw [engine]
      exact if_pos named
    rw [run, Attached.abort, same, ends]
    simp only [Attached.end_verify, Attached.hand_plain, named]
    rfl
  · have none : h.archiveEngine.abortedCompletion target = none := by
      cases engine : h.archiveEngine with
      | idle => rfl
      | replaying x n copy => exact if_neg (noReplay x n copy engine)
      | verifying x crc => exact if_neg (noVerify x crc engine)
    rw [run, Attached.abort, same, none]
    simp only [Attached.hand_plain]
    rfl

end Sys2Proof.Machine
end

section
/-! Proofs about the staging queue, shedding and release (Chapters 4 and 5). -/

namespace Sys2Proof.Machine

-- One declaration at a time: the check of the whole text then stays within its memory.
set_option Elab.async false

/-! ### Insertion (R59 to R62) -/

theorem Entry.isLineRecord_iff (e : Entry) : e.isLineRecord = true ↔ ∃ k, e.cls = some k := Option.isSome_iff_exists

/-- R60: the line records are the entries of a class. -/
theorem lineRecords_eq_countP (q : List Entry) : lineRecords q = q.countP fun e => decide (e.cls ≠ none) := by
  rw [lineRecords, ← List.countP_eq_length_filter]
  refine List.countP_congr fun e _ => ?_
  rw [decide_eq_true_iff, Entry.isLineRecord, Option.isSome_iff_ne_none]

/-- R61: in a queue in key order, what stands after the new entry has greater keys. -/
theorem insertByKey_between (e : Entry) {q : List Entry} (sorted : q.Pairwise fun a b => a.keyLe b = true) :
    ∃ before after, q = before ++ after ∧ (∀ x ∈ before, x.releaseKey ≤ e.releaseKey) ∧
      (∀ x ∈ after, e.releaseKey < x.releaseKey) ∧ insertByKey e q = before ++ e :: after := by
  obtain ⟨before, after, split, inserted, below, above⟩ := insertByKey_split e q
  refine ⟨before, after, split, fun x member => (Entry.keyLe_iff x e).mp (below x member), fun x member => ?_, inserted⟩
  cases after with
  | nil => cases member
  | cons y rest =>
    have first := (Entry.keyLt_iff y e).mp (above y rest rfl)
    obtain rfl | later := List.mem_cons.mp member
    · exact first
    · have order := (List.pairwise_cons.mp (List.pairwise_append.mp (split ▸ sorted)).2.1).1 x later
      exact first.trans_le ((Entry.keyLe_iff y x).mp order)

/-- Settles O24: with room, a record takes its place in key order. -/
theorem stagingInsertsInKeyOrder : Obligations.StagingInsertsInKeyOrder := by
  unfold Obligations.StagingInsertsInKeyOrder
  refine ⟨Entry.isLineRecord_iff, lineRecords_eq_countP, fun c e sound room roomForLine => ?_⟩
  obtain ⟨before, after, split, below, above, inserted⟩ := insertByKey_between e sound.1
  refine ⟨before, after, split, below, above, ?_⟩
  obtain ⟨-, staged⟩ | ⟨line, full, -⟩ := c.stage_cases e
  · rw [staged, ← inserted]
    rfl
  · exact absurd ⟨roomForLine line, room⟩ full

/-! ### Shedding (R83 to R87) -/

/-- R86: what a shed record does to the tallies. -/
theorem Capture.tallies_countShed (c : Capture) {shed : Entry} {k : ClassNo} (cls : shed.cls = some k) (n : RingNo) :
    (c.countShed shed).tallies.get n = if n = shed.ring then
        { count := satInc (c.tallies.get n).count, classes := (c.tallies.get n).classes ||| (1#4 <<< (shed.cls.getD 0).val) }
      else c.tallies.get n := by
  refine (c.tally_countShed shed n).trans (if_congr Iff.rfl ?_ rfl)
  rw [cls]
  rfl

/-- Settles O25: the decision to shed, with its victim, and what the shed record is counted in. -/
theorem fullStagingSheds : Obligations.FullStagingSheds := by
  unfold Obligations.FullStagingSheds
  intro c e k sound cls full
  obtain ⟨room, -⟩ | ⟨-, -, ⟨v, rest, decided, staged⟩ | ⟨decided, staged⟩⟩ := c.stage_cases e
  · have := room ((Entry.isLineRecord_iff e).mpr ⟨k, cls⟩)
    omega
  · obtain ⟨before, victim, after, low, split, victimCls, lower, least, last, evicts⟩ | ⟨-, discards⟩ :=
      sheddingDecision_cases e c.staging cls
    · obtain ⟨rfl, rfl⟩ : victim = v ∧ before ++ after = rest := Shedding.evict.inj (evicts.symm.trans decided)
      have held : victim ∈ c.staging := split ▸ List.mem_append_right _ List.mem_cons_self
      have order : ∀ x ∈ before, x.releaseKey ≤ victim.releaseKey := fun x member =>
        (Entry.keyLe_iff x victim).mp ((List.pairwise_append.mp (split ▸ sound.1)).2.2 x member victim List.mem_cons_self)
      rw [staged]
      refine ⟨victim, true, iff_of_true rfl ⟨victim, held, low, victimCls, lower⟩, nofun, fun _ => ?_, rfl, rfl, ?_,
        fun n => c.tallies_countShed victimCls n, fun i => c.line_countShed victim i⟩
      · exact ⟨before, after, low, split, victimCls, least, fun x member _ => order x member, last, rfl⟩
      · show (insertByKey e (before ++ after)).length = c.staging.length
        rw [insertByKey_length, split, List.length_append, List.length_append, List.length_cons, Nat.add_assoc]
    · rw [discards] at decided
      cases decided
  · obtain ⟨_, _, _, _, _, _, _, _, _, evicts⟩ | ⟨least, -⟩ := sheddingDecision_cases e c.staging cls
    · rw [evicts] at decided
      cases decided
    · have none : ¬ ∃ x ∈ c.staging, ∃ m, x.cls = some m ∧ m < k := fun ⟨x, member, m, xCls, lower⟩ =>
        absurd (least x member m xCls) (not_le.mpr lower)
      rw [staged]
      exact ⟨e, false, iff_of_false (by decide) none, fun _ => ⟨rfl, rfl⟩, nofun, rfl, rfl, rfl,
        fun n => c.tallies_countShed cls n, fun i => c.line_countShed e i⟩

/-! ### Eligibility (R63, R64) -/

/-- R64: what is earlier in key order is no later in capture, where stamps are in order. -/
theorem StampsSound.capture_le {c : Capture} (sound : StampsSound c) {x y : Entry} (hx : x ∈ c.staging) (hy : y ∈ c.staging)
    (order : x.keyLe y = true) : x.capture ≤ y.capture := by
  by_contra later
  have moments : ∀ {e : Entry}, e ∈ c.staging → momentOf e.capture e.stamp ∈ c.moments := fun member =>
    Capture.mem_moments.mpr (.inl ⟨_, member, rfl⟩)
  have stamps : (momentOf y.capture y.stamp).stampLe (momentOf x.capture x.stamp) :=
    sound.1 _ (moments hy) _ (moments hx) (Nat.lt_of_not_le later)
  have key := (Entry.keyLe_iff x y).mp order
  simp only [Entry.releaseKey, Prod.Lex.toLex_le_toLex] at key
  simp only [Moment.stampLe, momentOf] at stamps
  omega

/-- Settles O26: the entry before is captured no later, so it is eligible no later. -/
theorem eligibleEntriesComeFirst : Obligations.EligibleEntriesComeFirst := by
  unfold Obligations.EligibleEntriesComeFirst
  refine ⟨fun _ _ => rfl, fun c before mid after x y staging stamps queue waited => ?_⟩
  have hx : x ∈ c.staging := by simp [queue]
  have hy : y ∈ c.staging := by simp [queue]
  have order : x.keyLe y = true := by
    have sorted := staging.1
    rw [queue, List.append_assoc, List.cons_append] at sorted
    exact (List.pairwise_cons.mp (List.pairwise_append.mp sorted).2.1).1 y (by simp)
  have past : y.capture ≤ c.elapsed := (stamps.2 _ (Capture.mem_moments.mpr (.inl ⟨y, hy, rfl⟩))).1
  have earlier := stamps.capture_le hx hy order
  exact ⟨decide_eq_true (by omega), decide_eq_true (by omega)⟩

/-! ### Release (R67 to R71, R89) -/

theorem kindByte_eq_code (k : RecordKind) : kindByte k = k.code := by cases k <;> rfl

/-- Settles O27: with no tally, the first entry of the ring is the record. -/
theorem releaseStepReleasesEntry : Obligations.ReleaseStepReleasesEntry := by
  unfold Obligations.ReleaseStepReleasesEntry
  intro s n before after e queue others target eligible noTally takes
  obtain ⟨first, rest⟩ := Capture.firstFor_append queue others target
  have released : s.capture.releasedRecord n e = e.released s.capture.sequence := if_pos noTally
  have capture : s.capture.release n e = { s.capture with
      staging := before ++ after
      sequence := s.capture.sequence + 1
      archive := s.capture.archive.append s.capture.sequence (e.released s.capture.sequence).archived } := by
    have tally : (s.capture.tally n).count = 0 := noTally
    rw [Capture.release, if_pos tally, if_pos tally, rest, released]
  refine ⟨(e.released s.capture.sequence).archived, fun phase => ?_, EventRecord.withFlags_archived _, ?_⟩
  · rw [EventRecord.bytesOf_live, kindByte_eq_code, lineByte_eq_lineCode]
    rfl
  · have step := exec_releaseStep first eligible takes
    rw [capture, released] at step
    exact step

/-- Settles O28: with a tally, the record is a GAP, and the entry stays. -/
theorem releaseStepReleasesGap : Obligations.ReleaseStepReleasesGap := by
  unfold Obligations.ReleaseStepReleasesGap
  intro s n before after e queue others target eligible tallied takes
  obtain ⟨first, -⟩ := Capture.firstFor_append queue others target
  have released : s.capture.releasedRecord n e = gapRecord (s.capture.tallies.get n) e s.capture.sequence := if_neg tallied
  have capture : s.capture.release n e = { s.capture with
      tallies := s.capture.tallies.set n.val { count := 0, classes := 0 }
      sequence := s.capture.sequence + 1
      archive := s.capture.archive.append s.capture.sequence
        (gapRecord (s.capture.tallies.get n) e s.capture.sequence).archived } := by
    have tally : ¬ (s.capture.tally n).count = 0 := tallied
    rw [Capture.release, if_neg tally, if_neg tally, released]
  refine ⟨(gapRecord (s.capture.tallies.get n) e s.capture.sequence).archived, fun phase => ?_, EventRecord.withFlags_archived _, ?_⟩
  · rw [EventRecord.bytesOf_live, ← gapPayload_eq]
    rfl
  · have step := exec_releaseStep first eligible takes
    rw [capture, released] at step
    exact step

end Sys2Proof.Machine
end
